-- ==== Sys2Proof/Word.lean ====
section
/-! DEFINITION. The word types of the block: what spec/00_scope.md R8 calls values of N bits. -/

namespace Sys2Proof

/-- 8 bits: the unit of the serial streams, of IMG and of the frame and response buffers. -/
abbrev Byte := BitVec 8

/-- 16 bits: SIZE, IDX, checksums, the two-byte fields of a response. -/
abbrev Half := BitVec 16

/-- 24 bits: ADDR and OFFSET, an address in the device's flash (20_memory.md R53). -/
abbrev Addr := BitVec 24

/-- HOST_W = 32 bits: the host's data port (00_scope.md R7, 92 D30). -/
abbrev Word := BitVec 32

/-- HOST_IW = 6 bits: the host's register index (00_scope.md R7, 92 D30). -/
abbrev Index := BitVec 6

/-- A command frame, FRAME_LEN = 10 bytes, byte 0 first on the wire (30_encoding.md R70). -/
abbrev Frame := Vector Byte 10

/-- The response buffer's 26 bytes (10_state.md R26). -/
abbrev RespBuf := Vector Byte 26

end Sys2Proof
end

