-- ==== Sys2Proof/Config.lean ====
section
/-! DEFINITION. The constants the spec fixes (00_scope.md R5 and R6, 93_implementation_defined.md U12) and the parameters it leaves open (R7).
Their values are the source's, unaudited (R5, N21, U12; log 20). -/

namespace Sys2Proof.Config

/-- Bytes in a command frame. -/
def frameLen : Nat := 10
/-- AUTOBAUD: byte 0 of every command frame. -/
def autobaud : Byte := 0x55
/-- MAGIC_LO: byte 4 of a frame whose operation writes. -/
def magicLo : Byte := 0x55
/-- MAGIC_HI: byte 5 of a frame whose operation writes. -/
def magicHi : Byte := 0xAA
/-- PAD: byte 9 of every command frame. -/
def pad : Byte := 0x00
/-- SUCCESS: the status byte of a good FlashWrite or FlashErase response. -/
def success : Byte := 0x01
/-- VER_RESP_LEN. -/
def verRespLen : Nat := 26
/-- STATUS_RESP_LEN = FRAME_LEN + 1. -/
def statusRespLen : Nat := 11
/-- CSUM_RESP_LEN = FRAME_LEN + 2. -/
def csumRespLen : Nat := 12
/-- T_SHORT in ticks. -/
def tShort : Nat := 1000
/-- T_ERASE in ticks. -/
def tErase : Nat := 5000
/-- IMG_CAP: capacity of the image memory, 1 MiB. -/
def imgCap : Nat := 0x100000
/-- IMG_FILL: the value of an image byte nothing has written. -/
def imgFill : Byte := 0xFF
/-- WIN_START: first address of the flashed window. -/
def winStart : Nat := 0x800
/-- WIN_END: one past the last address of the flashed window. -/
def winEnd : Nat := 0x20000
/-- PAGE: bytes per FlashWrite of a session. -/
def page : Nat := 0x80
/-- VSTRIDE: the greatest byte count of one verify window. -/
def vstride : Nat := 0xFFF0
/-- VTAIL: bytes at the end of the window left out of verification. -/
def vtail : Nat := 2
/-- SENTINEL: the value forced into image byte WIN_END - 1 before writing. -/
def sentinel : Byte := 0x55

/-! Opcode values (30_encoding.md R72), which U12 also asks to keep as named constants. -/

/-- GetVersion: byte 1 of the command's frame. -/
def opGetVersion : Byte := 0x00
/-- FlashRead: byte 1 of the command's frame. -/
def opFlashRead : Byte := 0x01
/-- FlashWrite: byte 1 of the command's frame. -/
def opFlashWrite : Byte := 0x02
/-- FlashErase: byte 1 of the command's frame. -/
def opFlashErase : Byte := 0x03
/-- ConfigRead: byte 1 of the command's frame. -/
def opConfigRead : Byte := 0x06
/-- ConfigWrite: byte 1 of the command's frame. -/
def opConfigWrite : Byte := 0x07
/-- Checksum: byte 1 of the command's frame. -/
def opChecksum : Byte := 0x08
/-- Reset: byte 1 of the command's frame. -/
def opReset : Byte := 0x09

/-! Where the fields of a response stand, as byte offsets (30_encoding.md R74 to R76, U12). -/

/-- version, 2 bytes. -/
def offVersion : Nat := 10
/-- max_packet_size, 2 bytes. -/
def offMaxPkt : Nat := 12
/-- device_id, 2 bytes. -/
def offDevId : Nat := 16
/-- erase_row_size, 1 byte. -/
def offRow : Nat := 20
/-- write_latches, 1 byte. -/
def offLatch : Nat := 21
/-- config_words, 4 bytes. -/
def offCfg : Nat := 22
/-- The status byte of a FlashWrite or FlashErase response. -/
def offStatus : Nat := 10
/-- The device's checksum in a Checksum response, 2 bytes. -/
def offCsum : Nat := 10

end Sys2Proof.Config

namespace Sys2Proof

/-- The parameters of R7 that a rule reads. A machine holds one value of it and no step changes it: the spec says a
model takes a parameter "as an argument with the stated default", and the model's argument is the state (log 7).
P_TICK is read by no rule (log 19); HOST_W and HOST_IW are fixed by the spec and stand in Word.lean. -/
structure Params where
  /-- P_ERASE_WR: whether a FlashErase frame built by the dispatcher carries the write magic (92 D6). -/
  eraseWr : Bool := true
deriving DecidableEq, Repr

end Sys2Proof
end

