-- ==== Sys2Proof/Syntax.lean ====
section
/-! DEFINITION. The instructions: one constructor per row of spec/opcode_table.json (30_encoding.md R72, R74 to R76,
R82), and the forms in which their encodings come. -/

namespace Sys2Proof

/-- Every row of the opcode table. Commands carry what their frame encodes, responses carry every byte the device sent
(the uninterpreted ones too), requests carry what the written value says. -/
inductive Instr where
  /-- GETVERSION, opcode 0x00 (42_bootloader_commands.md R153). -/
  | getVersion (size : Half) (addr : Addr) (wr : Bool)
  /-- FLASHREAD, opcode 0x01 (R154). -/
  | flashRead (size : Half) (addr : Addr) (wr : Bool)
  /-- FLASHWRITE, opcode 0x02 (R155). -/
  | flashWrite (size : Half) (addr : Addr) (wr : Bool)
  /-- FLASHERASE, opcode 0x03 (R156). -/
  | flashErase (size : Half) (addr : Addr) (wr : Bool)
  /-- CONFIGREAD, opcode 0x06 (R157). -/
  | configRead (size : Half) (addr : Addr) (wr : Bool)
  /-- CONFIGWRITE, opcode 0x07 (R158). -/
  | configWrite (size : Half) (addr : Addr) (wr : Bool)
  /-- CHECKSUM, opcode 0x08 (R159). -/
  | checksum (size : Half) (addr : Addr) (wr : Bool)
  /-- RESET, opcode 0x09: the device's reset command (R160). -/
  | reset (size : Half) (addr : Addr) (wr : Bool)
  /-- RESP_VERSION (41_frame_codec.md R124): bytes 0 to 9 are the header, 14, 15, 18 and 19 have no field (R74). -/
  | respVersion (header : List Byte) (version maxPkt unused14 devId unused18 : Half) (row latch : Byte) (cfg : Word)
  /-- RESP_STATUS (R125): the header and the status byte (R75). -/
  | respStatus (header : List Byte) (status : Byte)
  /-- RESP_CHECKSUM (R126): the header and the device's checksum (R76). -/
  | respChecksum (header : List Byte) (csum : Half)
  /-- SRST: CTRL bit 0 (43_session_sequencer.md R201). -/
  | srst
  /-- START: CTRL bit 1 (R200). -/
  | start
  /-- CMD: CTRL bit 2 (42_bootloader_commands.md R140). -/
  | cmd
  /-- ENCODE: CTRL bit 3 (41_frame_codec.md R120). -/
  | encodeFrame
  /-- DECODE: CTRL bit 4 (R122). -/
  | decodeFrame
  /-- CSCLR: CTRL bit 5 (40_checksum_engine.md R103). -/
  | csClr
  /-- CSRANGE: CTRL bit 6 (R105). -/
  | csRange
  /-- CSPUSH b: a write of b to CSDATA (R104). -/
  | csPush (b : Byte)
deriving DecidableEq, Repr

/-- The three response formats (30_encoding.md R74, R75, R76). -/
inductive RespFormat where
  /-- RV: 26 bytes, after GetVersion. -/
  | version
  /-- RS: 11 bytes, after FlashWrite or FlashErase. -/
  | status
  /-- RC: 12 bytes, after Checksum. -/
  | csum
deriving DecidableEq, Repr

/-- The words of an instruction, in the place where the block meets them: the bytes of a command frame, the bytes of
a response of a given format (the format follows from the opcode sent, never from the bytes: R87, R128), or a host
write of a value to a register index (R82). -/
inductive Code where
  | frame (bytes : List Byte)
  | response (fmt : RespFormat) (bytes : List Byte)
  | hostWrite (i : Index) (v : Word)
deriving DecidableEq, Repr

/-- Why words are no instruction. -/
inductive DecodeError where
  /-- A frame that is not 10 bytes long (R70). -/
  | frameLength
  /-- F[0] is not 0x55 (R81). -/
  | badAutobaud
  /-- F[9] is not 0x00 (R81). -/
  | badPad
  /-- (F[4], F[5]) is neither (0x55, 0xAA) nor (0x00, 0x00) (R81). -/
  | badMagic
  /-- An opcode value of R80: 0x04, 0x05, 0x0A to 0xFF. -/
  | reservedOpcode
  /-- A response whose byte count is not its format's (R87). -/
  | responseLength
  /-- A CTRL write with none of bits 6:0 set, which does nothing (10_state.md R37). -/
  | noStrobe
  /-- A CTRL write with two or more of bits 6:0 set and bit 0 clear, which is refused (R37). -/
  | severalStrobes
  /-- A write to a register that is no request: an operand, a read-only register or an unmapped index (R36). -/
  | notRequest
deriving DecidableEq, Repr

/-- What DECODE recovers from the ten bytes of FB (41_frame_codec.md R123). -/
structure DecodedFrame where
  op    : Byte
  size  : Half
  addr  : Addr
  wr    : Bool
  ok    : Bool
  known : Bool
deriving DecidableEq, Repr

end Sys2Proof
end

