-- ==== Sys2Proof/WellFormed.lean ====
section
/-! DEFINITION. Which instruction terms have an encoding. The widths are in the types, so the one check left is that a
response's header is the FRAME_LEN bytes that stand before its fields (30_encoding.md R74, R75, R76, R78). -/

namespace Sys2Proof

/-- The header of a response is bytes 0 to 9. -/
def headerOk (header : List Byte) : Bool := header.length == Config.frameLen

/-- A term that has an encoding. Every command and every request has one: the encoder is a total function of its
operands (41_frame_codec.md R121). -/
def WellFormed : Instr → Bool
  | .getVersion _ _ _ => true
  | .flashRead _ _ _ => true
  | .flashWrite _ _ _ => true
  | .flashErase _ _ _ => true
  | .configRead _ _ _ => true
  | .configWrite _ _ _ => true
  | .checksum _ _ _ => true
  | .reset _ _ _ => true
  | .respVersion header _ _ _ _ _ _ _ _ => headerOk header
  | .respStatus header _ => headerOk header
  | .respChecksum header _ => headerOk header
  | .srst => true
  | .start => true
  | .cmd => true
  | .encodeFrame => true
  | .decodeFrame => true
  | .csClr => true
  | .csRange => true
  | .csPush _ => true

end Sys2Proof
end

