-- ==== Sys2Proof/Decode.lean ====
section
/-! DEFINITION. The decoder, total on any words, and the encoder written from the same tables
(spec/30_encoding.md R70 to R83, 41_frame_codec.md R121 and R123). -/

namespace Sys2Proof

/-! ## Byte order (20_memory.md R60) -/

/-- Bits 7:0 of a two-byte field. -/
def loByte (v : Half) : Byte := v.extractLsb' 0 8

/-- Bits 15:8 of a two-byte field. -/
def hiByte (v : Half) : Byte := v.extractLsb' 8 8

/-- `{hi, lo}`: the two-byte value with `hi` in bits 15:8. -/
def pair (hi lo : Byte) : Half := hi ++ lo

/-- Byte `k` (0 = least significant) of an address. -/
def addrByte (a : Addr) (k : Nat) : Byte := a.extractLsb' (8 * k) 8

/-- `{hi, mid, lo}`: the three-byte address. -/
def addrOf (hi mid lo : Byte) : Addr := hi ++ mid ++ lo

/-- Byte `k` (0 = least significant) of a four-byte value. -/
def wordByte (w : Word) (k : Nat) : Byte := w.extractLsb' (8 * k) 8

/-- `{b3, b2, b1, b0}`: the four-byte value. -/
def wordOf (b3 b2 b1 b0 : Byte) : Word := b3 ++ b2 ++ b1 ++ b0

/-- The low `n` bytes of a number, the least significant first. -/
def bytesOfNat : Nat → Nat → List Byte
  | 0, _ => []
  | n + 1, w => BitVec.ofNat 8 w :: bytesOfNat n (w / 256)

/-! ## Command frames -/

/-- `encode(op, size, addr, wr)` (41_frame_codec.md R121; byte places of 30_encoding.md R70). -/
def frameOf (op : Byte) (size : Half) (addr : Addr) (wr : Bool) : Frame :=
  #v[Config.autobaud, op, loByte size, hiByte size,
     if wr then Config.magicLo else 0x00, if wr then Config.magicHi else 0x00,
     addrByte addr 0, addrByte addr 1, addrByte addr 2, Config.pad]

/-- The eight opcode values of R72. -/
def knownOpcode (op : Byte) : Bool :=
  op == Config.opGetVersion || op == Config.opFlashRead || op == Config.opFlashWrite || op == Config.opFlashErase ||
  op == Config.opConfigRead || op == Config.opConfigWrite || op == Config.opChecksum || op == Config.opReset

/-- (F[4], F[5]) is the write pattern (R71, R123). -/
def magicWrites (f4 f5 : Byte) : Bool := f4 == Config.magicLo && f5 == Config.magicHi

/-- (F[4], F[5]) is the pattern of a frame that does not write (R71, R123). -/
def magicReads (f4 f5 : Byte) : Bool := f4 == 0x00 && f5 == 0x00

/-- `decode_cmd()` (41_frame_codec.md R123): the fields are extracted whether or not the frame is well formed. -/
def decodeCmd (f : Frame) : DecodedFrame where
  op := f[1]
  size := pair f[3] f[2]
  addr := addrOf f[8] f[7] f[6]
  wr := magicWrites f[4] f[5]
  ok := f[0] == Config.autobaud && f[9] == Config.pad && (magicWrites f[4] f[5] || magicReads f[4] f[5])
  known := knownOpcode f[1]

/-- The command of an opcode value (R72), if the value is one of the eight. -/
def commandOf (op : Byte) (size : Half) (addr : Addr) (wr : Bool) : Option Instr :=
  if op = Config.opGetVersion then some (.getVersion size addr wr)
  else if op = Config.opFlashRead then some (.flashRead size addr wr)
  else if op = Config.opFlashWrite then some (.flashWrite size addr wr)
  else if op = Config.opFlashErase then some (.flashErase size addr wr)
  else if op = Config.opConfigRead then some (.configRead size addr wr)
  else if op = Config.opConfigWrite then some (.configWrite size addr wr)
  else if op = Config.opChecksum then some (.checksum size addr wr)
  else if op = Config.opReset then some (.reset size addr wr)
  else none

/-- The instruction a command frame holds: exactly the well-formed frames of R81 whose opcode R72 names. -/
def decodeCommand (f : Frame) : Except DecodeError Instr :=
  if f[0] ≠ Config.autobaud then .error .badAutobaud
  else if f[9] ≠ Config.pad then .error .badPad
  else if !(magicWrites f[4] f[5] || magicReads f[4] f[5]) then .error .badMagic
  else match commandOf f[1] (pair f[3] f[2]) (addrOf f[8] f[7] f[6]) (magicWrites f[4] f[5]) with
    | some i => .ok i
    | none => .error .reservedOpcode

/-- As `decodeCommand`, from a list of bytes of any length. -/
def decodeFrameBytes : List Byte → Except DecodeError Instr
  | [f0, f1, f2, f3, f4, f5, f6, f7, f8, f9] => decodeCommand #v[f0, f1, f2, f3, f4, f5, f6, f7, f8, f9]
  | _ => .error .frameLength

/-! ## Responses -/

/-- Bytes in a response of the format (R74, R75, R76, R87). -/
def RespFormat.length : RespFormat → Nat
  | .version => Config.verRespLen
  | .status => Config.statusRespLen
  | .csum => Config.csumRespLen

/-- The response a byte list is, for the format the sent opcode selects: big-endian fields after ten header bytes. -/
def decodeResponse (fmt : RespFormat) (bs : List Byte) : Except DecodeError Instr :=
  match fmt, bs.drop Config.frameLen with
  | .version, [v1, v0, m1, m0, u1, u0, d1, d0, w1, w0, row, latch, c3, c2, c1, c0] =>
      .ok (.respVersion (bs.take Config.frameLen) (pair v1 v0) (pair m1 m0) (pair u1 u0) (pair d1 d0) (pair w1 w0)
        row latch (wordOf c3 c2 c1 c0))
  | .status, [st] => .ok (.respStatus (bs.take Config.frameLen) st)
  | .csum, [c1, c0] => .ok (.respChecksum (bs.take Config.frameLen) (pair c1 c0))
  | _, _ => .error .responseLength

/-- The 26 bytes of a GetVersion response (R74). -/
def versionBytes (header : List Byte) (version maxPkt unused14 devId unused18 : Half) (row latch : Byte) (cfg : Word) :
    List Byte :=
  header ++ [hiByte version, loByte version, hiByte maxPkt, loByte maxPkt, hiByte unused14, loByte unused14,
    hiByte devId, loByte devId, hiByte unused18, loByte unused18, row, latch,
    wordByte cfg 3, wordByte cfg 2, wordByte cfg 1, wordByte cfg 0]

/-- The 11 bytes of a FlashWrite or FlashErase response (R75). -/
def statusBytes (header : List Byte) (status : Byte) : List Byte := header ++ [status]

/-- The 12 bytes of a Checksum response (R76). -/
def csumBytes (header : List Byte) (csum : Half) : List Byte := header ++ [hiByte csum, loByte csum]

/-! ## Host requests -/

/-- A written CTRL value: bits 31:7 are ignored, bit 0 wins over the others (10_state.md R37, 30_encoding.md R82). -/
def decodeCtrl (v : Word) : Except DecodeError Instr :=
  let strobes : BitVec 7 := v.extractLsb' 0 7
  if v.getLsbD 0 then .ok .srst
  else if strobes = 0x00 then .error .noStrobe
  else if strobes = 0x02 then .ok .start
  else if strobes = 0x04 then .ok .cmd
  else if strobes = 0x08 then .ok .encodeFrame
  else if strobes = 0x10 then .ok .decodeFrame
  else if strobes = 0x20 then .ok .csClr
  else if strobes = 0x40 then .ok .csRange
  else .error .severalStrobes

/-- The index of CTRL (10_state.md R36). -/
def ctrlIndex : Index := 0x00

/-- The index of CSDATA (R36). -/
def csDataIndex : Index := 0x07

/-- The request a host write is, if it is one (R82): a CTRL strobe, or CSPUSH of bits 7:0. -/
def decodeHostWrite (i : Index) (v : Word) : Except DecodeError Instr :=
  if i = ctrlIndex then decodeCtrl v
  else if i = csDataIndex then .ok (.csPush (v.extractLsb' 0 8))
  else .error .notRequest

/-! ## The decoder and the encoder -/

/-- The decoder, total on every code. -/
def decode : Code → Except DecodeError Instr
  | .frame bs => decodeFrameBytes bs
  | .response fmt bs => decodeResponse fmt bs
  | .hostWrite i v => decodeHostWrite i v

/-- The encoder: the words of an instruction. Bits the spec says are ignored (CTRL 31:7, CSDATA 31:8, the other
strobes beside SRST) are 0. -/
def encode : Instr → Code
  | .getVersion size addr wr => .frame (frameOf Config.opGetVersion size addr wr).toList
  | .flashRead size addr wr => .frame (frameOf Config.opFlashRead size addr wr).toList
  | .flashWrite size addr wr => .frame (frameOf Config.opFlashWrite size addr wr).toList
  | .flashErase size addr wr => .frame (frameOf Config.opFlashErase size addr wr).toList
  | .configRead size addr wr => .frame (frameOf Config.opConfigRead size addr wr).toList
  | .configWrite size addr wr => .frame (frameOf Config.opConfigWrite size addr wr).toList
  | .checksum size addr wr => .frame (frameOf Config.opChecksum size addr wr).toList
  | .reset size addr wr => .frame (frameOf Config.opReset size addr wr).toList
  | .respVersion header version maxPkt unused14 devId unused18 row latch cfg =>
      .response .version (versionBytes header version maxPkt unused14 devId unused18 row latch cfg)
  | .respStatus header status => .response .status (statusBytes header status)
  | .respChecksum header csum => .response .csum (csumBytes header csum)
  | .srst => .hostWrite ctrlIndex 0x01
  | .start => .hostWrite ctrlIndex 0x02
  | .cmd => .hostWrite ctrlIndex 0x04
  | .encodeFrame => .hostWrite ctrlIndex 0x08
  | .decodeFrame => .hostWrite ctrlIndex 0x10
  | .csClr => .hostWrite ctrlIndex 0x20
  | .csRange => .hostWrite ctrlIndex 0x40
  | .csPush b => .hostWrite csDataIndex (b.setWidth 32)

/-! ## Words as spec/opcode_table.json numbers them (R83; log 3) -/

/-- The host write a table word of 32 bits or fewer stands for. The table's request rows number the written value only,
not the register index: a value that is a request in CTRL is read as a CTRL write, any other value matches the CSPUSH
row alone (mask 0) and is read as a CSDATA write. -/
def tableRequest (v : Word) : Code :=
  match decodeCtrl v with
  | .ok _ => .hostWrite ctrlIndex v
  | .error _ => .hostWrite csDataIndex v

/-- The command frame a table word of 33 to 80 bits stands for: byte 0 in bits 7:0 if that reading is a command frame,
else byte 0 in bits 79:72, which is how R83 numbers the rows' `match`. No word is a frame in both readings: byte 0 is
0x55 and byte 9 is 0x00. -/
def tableFrame (w : Nat) : Code :=
  match decodeFrameBytes (bytesOfNat 10 w) with
  | .ok _ => .frame (bytesOfNat 10 w)
  | .error _ => .frame (bytesOfNat 10 w).reverse

/-- The code a table word stands for. A response's format is told by its length (R87). -/
def tableCode (nbits w : Nat) : Code :=
  if nbits ≤ 32 then tableRequest (BitVec.ofNat 32 w)
  else if nbits ≤ 80 then tableFrame w
  else if nbits ≤ 88 then .response .status (bytesOfNat Config.statusRespLen w)
  else if nbits ≤ 96 then .response .csum (bytesOfNat Config.csumRespLen w)
  else .response .version (bytesOfNat Config.verRespLen w)

/-- The instruction the decoder reads from a table word. -/
def decodeTableWord (nbits w : Nat) : Option Instr :=
  match decode (tableCode nbits w) with
  | .ok i => some i
  | .error _ => none

end Sys2Proof
end

