-- ==== Sys2Proof/Machine/State.lean ====
section
/-! DEFINITION. The state: every register of spec/10_state.md R20, the image memory, and what stands at the block's
boundary (spec/20_memory.md). Plain data. -/

namespace Sys2Proof.Machine

/-- TSTATE (10_state.md R29). -/
inductive TState where
  /-- 0 = T_IDLE: no transaction in progress. -/
  | idle
  /-- 1 = T_TXF: sending the ten frame bytes. -/
  | txf
  /-- 2 = T_TXD: sending the FlashWrite payload. -/
  | txd
  /-- 3 = T_RX: waiting for response bytes. -/
  | rx
deriving DecidableEq, Repr

/-- SSTATE (10_state.md R30). -/
inductive SState where
  /-- 0 = S_IDLE: no session since reset. -/
  | idle
  /-- 1 = S_QUERY. -/
  | query
  /-- 2 = S_ERASE. -/
  | erase
  /-- 3 = S_WRITE. -/
  | write
  /-- 4 = S_VERIFY. -/
  | verify
  /-- 5 = S_RESET. -/
  | reset
  /-- 6 = S_DONE. -/
  | done
  /-- 7 = S_FAILED. -/
  | failed
deriving DecidableEq, Repr

/-- FAIL_PHASE (10_state.md R31); the codes 6 and 7 are never produced (log 13). -/
inductive Phase where
  | noPhase
  | query
  | erase
  | write
  | verify
  | reset
deriving DecidableEq, Repr

/-- The cause codes of TRES and FAIL_CAUSE (60_exceptions.md R231); the codes 9 to 15 are never produced (log 13). -/
inductive Cause where
  /-- 0: every good end. -/
  | eNone
  /-- 1: a receive wait ran out. -/
  | eTimeout
  /-- 2: the channel would not take a byte. -/
  | eIoTx
  /-- 3: the channel reported a receive error. -/
  | eIoRx
  /-- 4: a status byte other than 0x01. -/
  | eProtocol
  /-- 5: a verify window differs; only in FAIL_CAUSE. -/
  | eCsum
  /-- 6: INFO_ROW gives no row count that fits; only in FAIL_CAUSE. -/
  | eParam
  /-- 7: an opcode the engine does not run. -/
  | eUnsup
  /-- 8: a FlashWrite range that leaves the image. -/
  | eRange
deriving DecidableEq, Repr

/-- The events of 00_scope.md R11. -/
inductive Event where
  /-- `Reset`, from the platform. -/
  | reset
  /-- `HostWrite(i, v)`, from the host. -/
  | hostWrite (i : Index) (v : Word)
  /-- `HostRead(i)`, from the host. -/
  | hostRead (i : Index)
  /-- `TxAccept`: the channel has taken the offered byte. -/
  | txAccept
  /-- `TxFail`: the channel will not take the offered byte. -/
  | txFail
  /-- `RxByte(b)`: the channel delivers a byte. -/
  | rxByte (b : Byte)
  /-- `RxError`: the channel reports a receive error. -/
  | rxError
  /-- `Tick`: one unit of the time base. -/
  | tick
deriving DecidableEq, Repr

/-- The access classes of the host's register map (10_state.md R36). -/
inductive Access where
  /-- W1: write-one strobes, reads 0. -/
  | strobe
  /-- WO: write only, reads 0. -/
  | writeOnly
  /-- RO: read only. -/
  | readOnly
  /-- RW: read and write. -/
  | readWrite
  /-- No register at the index. -/
  | unmapped
deriving DecidableEq, Repr

/-- IMG as the list of the bytes that differ from IMG_FILL, by rising address (20_memory.md R50; log 8). -/
abbrev Memory := List Host.Cell

/-- The block's registers under the spec's names, then what stands outside the block. -/
structure State where
  -- checksum engine (R22, R23)
  csA : Byte
  csB : Byte
  csH : Byte
  csPh : Bool
  -- frame codec (R24 to R28)
  op : Byte
  size : Half
  addr : Addr
  wr : Bool
  fb : Frame
  rb : RespBuf
  rcnt : BitVec 5
  dOp : Byte
  dSize : Half
  dAddr : Addr
  dWr : Bool
  dOk : Bool
  dKnown : Bool
  rspStatus : Byte
  rspCsum : Half
  infoVersion : Half
  infoMaxpkt : Half
  infoDevid : Half
  infoRow : Byte
  infoLatch : Byte
  infoCfg : Word
  infoValid : Bool
  -- dispatcher (R29 to R34)
  tstate : TState
  idx : Half
  timer : BitVec 13
  tres : Cause
  sstate : SState
  failPhase : Phase
  failCause : Cause
  offset : Addr
  progress : BitVec 7
  herr : Bool
  /-- IMG, outside the block (20_memory.md R50). -/
  img : Memory
  /-- The events the surroundings raise, oldest first (the model's own, log 1). -/
  pending : List Event
  /-- The bytes for which `TxAccept` occurred, in order: the block's whole output to the device (R55; log 10). -/
  sent : List Byte
  /-- What the last `HostRead` returned (the model's own, log 9). -/
  hostData : Word
  /-- The open parameter (00_scope.md R7; log 7); no step changes it. -/
  params : Params
deriving DecidableEq, Repr

/-- The state after reset (10_state.md R20, 70_reset_and_hazards.md R260: every register 0), with nothing listed in
IMG, no event pending and no byte sent yet. -/
def State.reset : State where
  csA := 0
  csB := 0
  csH := 0
  csPh := false
  op := 0
  size := 0
  addr := 0
  wr := false
  fb := Vector.replicate 10 0
  rb := Vector.replicate 26 0
  rcnt := 0
  dOp := 0
  dSize := 0
  dAddr := 0
  dWr := false
  dOk := false
  dKnown := false
  rspStatus := 0
  rspCsum := 0
  infoVersion := 0
  infoMaxpkt := 0
  infoDevid := 0
  infoRow := 0
  infoLatch := 0
  infoCfg := 0
  infoValid := false
  tstate := .idle
  idx := 0
  timer := 0
  tres := .eNone
  sstate := .idle
  failPhase := .noPhase
  failCause := .eNone
  offset := 0
  progress := 0
  herr := false
  img := []
  pending := []
  sent := []
  hostData := 0
  params := {}

/-- Where the model stops because the spec says a function is never asked for the value. Each is safe, and none is
raised from a state that meets the invariant of Safety.lean (log 11, log 12). -/
inductive Fault where
  /-- Raised by TxAccept and RxByte: `resp_len(OP)` of an opcode the engine does not run, "not defined" (R143). Safe. -/
  | respLenUndefined
  /-- Raised by TxAccept and RxByte: `timeout(OP)` where R144 says "not defined". Safe. -/
  | timeoutUndefined
  /-- Raised by TxAccept: an IDX past the frame buffer in T_TXF (R21: IDX never exceeds 10). Safe. -/
  | frameIndex
  /-- Raised by RxByte: an RCNT past the response buffer in T_RX (R26). Safe. -/
  | responseIndex
  /-- Raised by TxAccept and by the verify step: `MemRead` of an address of 0x100000 or more, never called (R51). Safe. -/
  | imgAddress
deriving DecidableEq, Repr

/-- Where a step answers nothing. -/
inductive Refusal where
  /-- Raised by `exec` for an instruction that has no meaning yet. Safe. -/
  | notModelled (mnemonic : String)
  /-- Raised by an event's rule outside the states in which the event is enabled: the event cannot occur (R11). `step`
  never performs such an event, so it never answers this. Safe. -/
  | eventNotEnabled
deriving DecidableEq, Repr

/-- What a rule that can stop answers. -/
abbrev Result := Host.Outcome State Fault Refusal

end Sys2Proof.Machine
end

