-- ==== Sys2Proof/Machine/Ops.lean ====
section
/-! DEFINITION. The shared operations: sequencing of rules that can stop, the image memory, the code of each named
register value, a host refusal, a session failure (what this block has in place of an exception), and reset (its only
way back). -/

namespace Sys2Proof.Machine

/-- Go on with `f` where a rule has answered a next state. -/
def andThen (r : Result) (f : State → Result) : Result :=
  match r with
  | .next s => f s
  | .fault e => .fault e
  | .refused e => .refused e

/-! ## The image memory (20_memory.md R50 to R52) -/

/-- The byte at an address: IMG_FILL where nothing is listed. -/
def cellRead (m : Memory) (a : Nat) : Byte :=
  match m with
  | [] => Config.imgFill
  | (k, v) :: rest => if k = a then v else cellRead rest a

/-- Put a byte at an address; a byte equal to IMG_FILL is not listed. -/
def cellWrite (m : Memory) (a : Nat) (b : Byte) : Memory :=
  match m with
  | [] => if b = Config.imgFill then [] else [(a, b)]
  | (k, v) :: rest =>
    if k < a then (k, v) :: cellWrite rest a b
    else if k = a then (if b = Config.imgFill then rest else (a, b) :: rest)
    else (if b = Config.imgFill then (k, v) :: rest else (a, b) :: (k, v) :: rest)

/-- Every listed address is at least `lo` and below IMG_CAP, addresses rise, and no listed byte is IMG_FILL. -/
def cellsFrom (lo : Nat) (m : Memory) : Bool :=
  match m with
  | [] => true
  | (k, v) :: rest => decide (lo ≤ k) && decide (k < Config.imgCap) && decide (v ≠ Config.imgFill) && cellsFrom (k + 1) rest

/-- The canonical form of IMG, so that equal memories are equal data. -/
def Memory.wf (m : Memory) : Bool := cellsFrom 0 m

/-- `MemRead(addr, 1)`, for the addresses it is defined on (R51). -/
def memRead (m : Memory) (a : Nat) : Option Byte :=
  if a < Config.imgCap then some (cellRead m a) else none

/-- The `n` bytes from `a` upward. -/
def cellRange (m : Memory) (a : Nat) : Nat → List Byte
  | 0 => []
  | n + 1 => cellRead m a :: cellRange m (a + 1) n

/-- `MemWrite(addr, 1, v)` (R52). -/
def memWrite (a : Nat) (b : Byte) (s : State) : State := { s with img := cellWrite s.img a b }

/-! ## The codes of the named register values -/

/-- TSTATE's two bits (10_state.md R29). -/
def tstateCode : TState → BitVec 2
  | .idle => 0
  | .txf => 1
  | .txd => 2
  | .rx => 3

/-- SSTATE's three bits (R30). -/
def sstateCode : SState → BitVec 3
  | .idle => 0
  | .query => 1
  | .erase => 2
  | .write => 3
  | .verify => 4
  | .reset => 5
  | .done => 6
  | .failed => 7

/-- FAIL_PHASE's three bits (R31). -/
def phaseCode : Phase → BitVec 3
  | .noPhase => 0
  | .query => 1
  | .erase => 2
  | .write => 3
  | .verify => 4
  | .reset => 5

/-- The four bits of TRES and FAIL_CAUSE (60_exceptions.md R231). -/
def causeCode : Cause → BitVec 4
  | .eNone => 0
  | .eTimeout => 1
  | .eIoTx => 2
  | .eIoRx => 3
  | .eProtocol => 4
  | .eCsum => 5
  | .eParam => 6
  | .eUnsup => 7
  | .eRange => 8

/-! ## Refusal, failure and reset -/

/-- `refuse()` (10_state.md R45): HERR is set and nothing else changes. -/
def refuse (s : State) : State := { s with herr := true }

/-- The pending events are replaced (the surroundings' side, log 1). -/
def setPending (es : List Event) (s : State) : State := { s with pending := es }

/-- `fail(phase, cause)` (60_exceptions.md R236), the one way a session fails: the phase and the cause are recorded,
SSTATE becomes S_FAILED, and nothing else changes; OFFSET stays as the last offset. -/
def fail (phase : Phase) (cause : Cause) (s : State) : State :=
  { s with failPhase := phase, failCause := cause, sstate := .failed }

/-- Reset (70_reset_and_hazards.md R260, R262): every register of R20 takes its reset value; IMG, the channel and
everything else outside the block stay. It is the only way out of S_FAILED (R237). -/
def resetBlock (s : State) : State :=
  { State.reset with
    img := s.img, pending := s.pending, sent := s.sent, hostData := s.hostData, params := s.params }

end Sys2Proof.Machine
end

