-- ==== Sys2Proof/Machine/Operands.lean ====
section
/-! DEFINITION. Operands: what the engine reads off an opcode (spec/42_bootloader_commands.md R141 to R144), the operand
registers a command is issued with, and the image ranges a request names. -/

namespace Sys2Proof.Machine

/-- `supported(op)` (R141). -/
def supported (op : Byte) : Bool := op == Config.opGetVersion || op == Config.opFlashWrite || op == Config.opFlashErase || op == Config.opChecksum || op == Config.opReset

/-- `wr_of(op)` (R142); the argument `eraseWr` is P_ERASE_WR. -/
def wrOf (eraseWr : Bool) (op : Byte) : Bool :=
  if op = Config.opFlashWrite then true
  else if op = Config.opFlashErase then eraseWr
  else if op = Config.opConfigWrite then true
  else false

/-- `resp_len(op)` (R143), where it is defined. -/
def respLen (op : Byte) : Option Nat :=
  if op = Config.opGetVersion then some Config.verRespLen
  else if op = Config.opFlashWrite then some Config.statusRespLen
  else if op = Config.opFlashErase then some Config.statusRespLen
  else if op = Config.opChecksum then some Config.csumRespLen
  else if op = Config.opReset then some 0
  else none

/-- `timeout(op)` in ticks (R144), where it is defined for an opcode the engine runs. -/
def timeoutTicks (op : Byte) : Option Nat :=
  if op = Config.opGetVersion then some Config.tShort
  else if op = Config.opFlashWrite then some Config.tShort
  else if op = Config.opFlashErase then some Config.tErase
  else if op = Config.opChecksum then some Config.tShort
  else none

/-- Which decoder the sent opcode selects (41_frame_codec.md R128). -/
def respFormat (op : Byte) : Option RespFormat :=
  if op = Config.opGetVersion then some .version
  else if op = Config.opFlashWrite then some .status
  else if op = Config.opFlashErase then some .status
  else if op = Config.opChecksum then some .csum
  else none

/-- Put a command's operands into OP, SIZE and ADDR, as the sequencer and the host's `cmd` do (30_encoding.md R86). -/
def loadOperands (op : Byte) (size : Half) (addr : Addr) (s : State) : State :=
  { s with op := op, size := size, addr := addr }

/-- OP <- o. -/
def loadOp (o : Byte) (s : State) : State := { s with op := o }

/-- SIZE <- n. -/
def loadSize (n : Half) (s : State) : State := { s with size := n }

/-- WR <- w. -/
def loadWr (w : Bool) (s : State) : State := { s with wr := w }

/-- FB[k] <- b. -/
def loadFb (k : Nat) (b : Byte) (s : State) : State := { s with fb := s.fb.setIfInBounds k b }

/-- ADDR <- a. -/
def loadAddr (a : Addr) (s : State) : State := { s with addr := a }

/-- `base + len` is computed exactly and compared with IMG_CAP (20_memory.md R61, 92 D17). -/
def inImage (base len : Nat) : Bool := decide (base + len ≤ Config.imgCap)

/-- The image bytes ADDR .. ADDR + SIZE - 1. -/
def operandRange (s : State) : List Byte := cellRange s.img s.addr.toNat s.size.toNat

end Sys2Proof.Machine
end

