-- ==== Sys2Proof/Machine/Flags.lean ====
section
/-! DEFINITION. The bits and words that are functions of the state: BUSY, DONE, FAILED, CSEQ, the STATUS word and the
level outputs (spec/10_state.md R35, R38, R39). -/

namespace Sys2Proof.Machine

/-- SSTATE is 1, 2, 3, 4 or 5: a session is running. -/
def sessionActive : SState → Bool
  | .idle => false
  | .query => true
  | .erase => true
  | .write => true
  | .verify => true
  | .reset => true
  | .done => false
  | .failed => false

/-- The phase number of a running session: the same number as its SSTATE (R31). -/
def phaseOf : SState → Phase
  | .idle => .noPhase
  | .query => .query
  | .erase => .erase
  | .write => .write
  | .verify => .verify
  | .reset => .reset
  | .done => .noPhase
  | .failed => .noPhase

/-- BUSY (R35). -/
def busy (s : State) : Bool := s.tstate != .idle || sessionActive s.sstate

/-- DONE (R35). -/
def done (s : State) : Bool := s.sstate == .done

/-- FAILED (R35). -/
def failed (s : State) : Bool := s.sstate == .failed

/-- `cs_value()`, and what CSUM reads (R36): CS_A in bits 15:8. -/
def csValue (s : State) : Half := pair s.csA s.csB

/-- CSEQ (R35). -/
def csEq (s : State) : Bool := s.rspCsum == csValue s

/-- One bit as a bit vector. -/
def bit (b : Bool) : BitVec 1 := BitVec.ofBool b

/-- The STATUS word (R38), its most significant field first. -/
def statusWord (s : State) : Word :=
  0#12 ++ causeCode s.tres ++ 0#2 ++ bit (csEq s) ++ bit s.dKnown ++ bit s.dOk ++ bit s.infoValid ++ bit s.csPh ++
    bit s.herr ++ bit (failed s) ++ bit (done s) ++ bit (busy s) ++ tstateCode s.tstate ++ sstateCode s.sstate

/-- The level outputs `busy`, `done`, `failed` and `progress[6:0]` (R39). -/
def outputs (s : State) : Bool × Bool × Bool × BitVec 7 := (busy s, done s, failed s, s.progress)

end Sys2Proof.Machine
end

