-- ==== Sys2Proof/Machine/Checksum.lean ====
section
/-! DEFINITION. The checksum engine (spec/40_checksum_engine.md): the function of R100, the streaming engine of R101 and
R102, and the requests CSCLR, CSPUSH and CSRANGE. -/

namespace Sys2Proof.Machine

/-! ## The function -/

/-- One pair of R100: `x` is added into `a`, `y` and the carry of that addition into `b`. -/
def addPair (a b x y : Byte) : Byte × Byte :=
  let t := a.toNat + x.toNat
  let carry := t / 256
  let u := b.toNat + y.toNat + carry
  (BitVec.ofNat 8 t, BitVec.ofNat 8 u)

/-- The accumulators after the pairs of a byte sequence; a trailing single byte is ignored. -/
def sumPairs (ab : Byte × Byte) : List Byte → Byte × Byte
  | x :: y :: rest => sumPairs (addPair ab.1 ab.2 x y) rest
  | _ => ab

/-- `checksum(data)` (R100). -/
def checksum (data : List Byte) : Half := pair (sumPairs (0, 0) data).1 (sumPairs (0, 0) data).2

/-! ## The streaming engine -/

/-- `cs_clear()` (R101). -/
def csClear (s : State) : State := { s with csA := 0, csB := 0, csH := 0, csPh := false }

/-- `cs_push(v)` (R102). -/
def csPushByte (s : State) (v : Byte) : State :=
  if s.csPh then
    { s with csA := (addPair s.csA s.csB s.csH v).1, csB := (addPair s.csA s.csB s.csH v).2, csPh := false }
  else
    { s with csH := v, csPh := true }

/-- `cs_push` of each byte in turn. -/
def csPushAll (bs : List Byte) (s : State) : State := bs.foldl csPushByte s

/-! ## The requests -/

/-- CSCLR (R103). -/
def execCsClr (s : State) : Result := .next (if busy s then refuse s else csClear s)

/-- CSPUSH b (R104). -/
def execCsPush (b : Byte) (s : State) : Result := .next (if busy s then refuse s else csPushByte s b)

/-- CSRANGE (R105): refused while busy or when ADDR + SIZE leaves the image; the engine is not cleared first. -/
def execCsRange (s : State) : Result :=
  .next (if busy s then refuse s
    else if inImage s.addr.toNat s.size.toNat then csPushAll (operandRange s) s
    else refuse s)

end Sys2Proof.Machine
end

