-- ==== Sys2Proof/Machine/Codec.lean ====
section
/-! DEFINITION. The frame codec (spec/41_frame_codec.md): the requests ENCODE and DECODE and the response decoders, which
run on RB when a response is complete. -/

namespace Sys2Proof.Machine

/-- FB <- encode(OP, SIZE, ADDR, WR) (R120, R145). -/
def buildFrame (s : State) : State := { s with fb := frameOf s.op s.size s.addr s.wr }

/-- ENCODE (R120). -/
def execEncodeFrame (s : State) : Result := .next (if busy s then refuse s else buildFrame s)

/-- The D_ registers <- decode_cmd() (R122). -/
def takeFrame (s : State) : State :=
  { s with
    dOp := (decodeCmd s.fb).op, dSize := (decodeCmd s.fb).size, dAddr := (decodeCmd s.fb).addr,
    dWr := (decodeCmd s.fb).wr, dOk := (decodeCmd s.fb).ok, dKnown := (decodeCmd s.fb).known }

/-- DECODE (R122). -/
def execDecodeFrame (s : State) : Result := .next (if busy s then refuse s else takeFrame s)

/-- `decode_version()` (R124); its result is always E_NONE. -/
def decodeVersion (s : State) : State :=
  { s with
    infoVersion := pair s.rb[Config.offVersion] s.rb[Config.offVersion + 1]
    infoMaxpkt := pair s.rb[Config.offMaxPkt] s.rb[Config.offMaxPkt + 1]
    infoDevid := pair s.rb[Config.offDevId] s.rb[Config.offDevId + 1]
    infoRow := s.rb[Config.offRow]
    infoLatch := s.rb[Config.offLatch]
    infoCfg := wordOf s.rb[Config.offCfg] s.rb[Config.offCfg + 1] s.rb[Config.offCfg + 2] s.rb[Config.offCfg + 3]
    infoValid := true }

/-- `decode_status()` (R125): the register it writes. -/
def decodeStatus (s : State) : State := { s with rspStatus := s.rb[Config.offStatus] }

/-- `decode_status()` (R125): its result. -/
def statusResult (s : State) : Cause := if s.rb[Config.offStatus] = Config.success then .eNone else .eProtocol

/-- `decode_csum()` (R126); its result is always E_NONE. -/
def decodeCsum (s : State) : State := { s with rspCsum := pair s.rb[Config.offCsum] s.rb[Config.offCsum + 1] }

/-- Run the decoder a format selects (R128): the state after it and its result. -/
def runDecoder : RespFormat → State → State × Cause
  | .version, s => (decodeVersion s, .eNone)
  | .status, s => (decodeStatus s, statusResult s)
  | .csum, s => (decodeCsum s, .eNone)

end Sys2Proof.Machine
end

