-- ==== Sys2Proof/Machine/Sequencer.lean ====
section
/-! DEFINITION. The start and the end of a transaction (spec/42_bootloader_commands.md R145, R152) and the session
sequencer that runs between them (spec/43_session_sequencer.md R200 to R211). -/

namespace Sys2Proof.Machine

/-! ## Starting a transaction -/

/-- The first two lines of `complete(res)` (R152). -/
def endTxn (res : Cause) (s : State) : State := { s with tres := res, tstate := .idle }

/-- The end of a transaction (R152) whose result is not E_NONE: TRES and TSTATE, and in a session the failure entry,
which is all that `seq_advance` does with such a result (R202; log 15). -/
def abortTxn (res : Cause) (s : State) : State :=
  if sessionActive s.sstate then fail (phaseOf s.sstate) res (endTxn res s) else endTxn res s

/-- The last branch of `start_txn()` (R145): the frame is built with the flag of `wr_of` and sending begins. -/
def launch (s : State) : State :=
  { s with
    wr := wrOf s.params.eraseWr s.op
    fb := frameOf s.op s.size s.addr (wrOf s.params.eraseWr s.op)
    idx := 0
    rcnt := 0
    tres := .eNone
    infoValid := if s.op = Config.opGetVersion then false else s.infoValid
    tstate := .txf }

/-- `start_txn()` (R145). -/
def startTxn (s : State) : State :=
  if !supported s.op then abortTxn .eUnsup s
  else if s.op = Config.opFlashWrite ∧ inImage s.addr.toNat s.size.toNat = false then abortTxn .eRange s
  else launch s

/-- Load a command's operands and start its transaction: how every command is issued. -/
def issue (op : Byte) (size : Half) (addr : Addr) (s : State) : State := startTxn (loadOperands op size addr s)

/-! ## The session's phases, each run when its transaction has ended with `res` -/

/-- SSTATE <- ss. -/
def enterPhase (ss : SState) (s : State) : State := { s with sstate := ss }

/-- OFFSET <- o. -/
def setOffset (o : Addr) (s : State) : State := { s with offset := o }

/-- PROGRESS <- p. -/
def setProgress (p : BitVec 7) (s : State) : State := { s with progress := p }

/-- `floor(0x1F800 / INFO_ROW)` (R204). -/
def eraseRows (row : Byte) : Nat := (Config.winEnd - Config.winStart) / row.toNat

/-- Erase issue (R204). -/
def eraseIssue (s : State) : State :=
  if s.infoRow = 0 then fail .erase .eParam s
  else if 0xFFFF < eraseRows s.infoRow then fail .erase .eParam s
  else issue Config.opFlashErase (BitVec.ofNat 16 (eraseRows s.infoRow)) (BitVec.ofNat 24 Config.winStart) (enterPhase .erase s)

/-- S_QUERY (R203). -/
def seqQuery (res : Cause) (s : State) : State :=
  if res ≠ .eNone then fail .query res s else eraseIssue s

/-- FlashWrite of the page at OFFSET, whose size is PAGE. -/
def issuePage (s : State) : State := issue Config.opFlashWrite (BitVec.ofNat 16 Config.page) s.offset s

/-- S_ERASE (R205): the sentinel is written before the first page is read. -/
def seqErase (res : Cause) (s : State) : State :=
  if res ≠ .eNone then fail .erase res s
  else
    issuePage (enterPhase .write (setProgress 0 (setOffset (BitVec.ofNat 24 Config.winStart)
      (memWrite (Config.winEnd - 1) Config.sentinel s))))

/-- `floor(100 * (offset - 0x800) / 0x1F800)` (R207, R214; for an offset below the window: log 14). -/
def progressAt (offset : Addr) : BitVec 7 :=
  BitVec.ofNat 7 (100 * (offset.toNat - Config.winStart) / (Config.winEnd - Config.winStart))

/-- The size of the verify window that starts at an offset (R208; log 14). -/
def verifyLen (offset : Addr) : Half :=
  BitVec.ofNat 16 (min Config.vstride (Config.winEnd - Config.vtail - offset.toNat))

/-- `issue_verify()` (R208). -/
def issueVerify (s : State) : State := issue Config.opChecksum (verifyLen s.offset) s.offset s

/-- OFFSET <- OFFSET + PAGE and the progress after it (R207). -/
def nextPage (s : State) : State :=
  { s with
    offset := s.offset + BitVec.ofNat 24 Config.page
    progress := progressAt (s.offset + BitVec.ofNat 24 Config.page) }

/-- S_WRITE (R207): on a good end the next page, or after the last one the first verify window. The rule leaves OP and
SIZE unchanged for the next page, so only ADDR is loaded. -/
def seqWrite (res : Cause) (s : State) : State :=
  if res ≠ .eNone then fail .write res s
  else if (nextPage s).offset.toNat < Config.winEnd then
    startTxn (loadAddr (nextPage s).offset (nextPage s))
  else
    issueVerify (enterPhase .verify (setOffset (BitVec.ofNat 24 Config.winStart) (nextPage s)))

/-- The engine cleared and fed the image bytes OFFSET .. OFFSET + SIZE - 1 (R209). -/
def localChecksum (s : State) : State := csPushAll (cellRange s.img s.offset.toNat s.size.toNat) (csClear s)

/-- OFFSET <- OFFSET + SIZE, then the next verify window or the device's reset (R209, R210). -/
def nextWindow (s : State) : State :=
  if (s.offset + s.size.setWidth 24).toNat < Config.winEnd - Config.vtail then
    issueVerify (setOffset (s.offset + s.size.setWidth 24) s)
  else
    issue Config.opReset 0 0 (enterPhase .reset (setOffset (s.offset + s.size.setWidth 24) s))

/-- S_VERIFY (R209). -/
def seqVerify (res : Cause) (s : State) : Result :=
  if res ≠ .eNone then .next (fail .verify res s)
  else if inImage s.offset.toNat s.size.toNat = false then .fault .imgAddress
  else if csValue (localChecksum s) ≠ (localChecksum s).rspCsum then .next (fail .verify .eCsum (localChecksum s))
  else .next (nextWindow (localChecksum s))

/-- S_RESET (R211). -/
def seqReset (res : Cause) (s : State) : State :=
  if res ≠ .eNone then fail .reset res s else enterPhase .done s

/-- `seq_advance(res)` (R202). Outside a running session it is not called; there it changes nothing. -/
def seqAdvance (res : Cause) (s : State) : Result :=
  match s.sstate with
  | .idle => .next s
  | .query => .next (seqQuery res s)
  | .erase => .next (seqErase res s)
  | .write => .next (seqWrite res s)
  | .verify => seqVerify res s
  | .reset => .next (seqReset res s)
  | .done => .next s
  | .failed => .next s

/-- `complete(res)` (42_bootloader_commands.md R152), the end of every transaction that was started. -/
def complete (res : Cause) (s : State) : Result :=
  if sessionActive s.sstate then seqAdvance res (endTxn res s) else .next (endTxn res s)

end Sys2Proof.Machine
end

