-- ==== Sys2Proof/Machine/Transaction.lean ====
section
/-! DEFINITION. One transaction event by event: sending (spec/42_bootloader_commands.md R146 to R149), receiving (R150,
R151) and the receive-wait timer (spec/60_exceptions.md R241). -/

namespace Sys2Proof.Machine

/-! ## Sending -/

/-- `tx_byte()`, the byte the block offers (R55, R146); none while nothing is offered. -/
def txByte (s : State) : Option Byte :=
  match s.tstate with
  | .idle => none
  | .txf => s.fb[s.idx.toNat]?
  | .txd => memRead s.img (s.addr.toNat + s.idx.toNat)
  | .rx => none

/-- The receive wait begins with its full timeout (R148). -/
def enterRx (t : Nat) (s : State) : State := { s with timer := BitVec.ofNat 13 t, tstate := .rx }

/-- The payload of a FlashWrite begins (R146). -/
def enterTxd (s : State) : State := { s with idx := 0, tstate := .txd }

/-- `tx_done()` (R148). -/
def txDone (s : State) : Result :=
  match respLen s.op with
  | none => .fault .respLenUndefined
  | some 0 => complete .eNone s
  | some (_ + 1) =>
    match timeoutTicks s.op with
    | none => .fault .timeoutUndefined
    | some t => .next (enterRx t s)

/-- The offered byte is taken: it joins the output, and IDX moves to the next one. -/
def acceptByte (b : Byte) (s : State) : State := { s with sent := s.sent ++ [b], idx := s.idx + 1 }

/-- `TxAccept` in T_TXF, after the byte was taken (R146). -/
def afterFrameByte (s : State) : Result :=
  if s.idx.toNat = Config.frameLen then
    (if s.op = Config.opFlashWrite ∧ s.size ≠ 0 then .next (enterTxd s) else txDone s)
  else .next s

/-- `TxAccept` in T_TXD, after the byte was taken (R147). -/
def afterPayloadByte (s : State) : Result :=
  if s.idx = s.size then txDone s else .next s

/-- `TxAccept` (R146, R147). -/
def txAccept (s : State) : Result :=
  match s.tstate with
  | .idle => .refused .eventNotEnabled
  | .txf =>
    match txByte s with
    | none => .fault .frameIndex
    | some b => afterFrameByte (acceptByte b s)
  | .txd =>
    match txByte s with
    | none => .fault .imgAddress
    | some b => afterPayloadByte (acceptByte b s)
  | .rx => .refused .eventNotEnabled

/-- `TxFail` (R149). -/
def txFail (s : State) : Result :=
  match s.tstate with
  | .idle => .refused .eventNotEnabled
  | .txf => complete .eIoTx s
  | .txd => complete .eIoTx s
  | .rx => .refused .eventNotEnabled

/-! ## Receiving -/

/-- RB[RCNT] <- b, RCNT <- RCNT + 1 and the full timeout again (R150). -/
def storeByte (b : Byte) (t : Nat) (s : State) : State :=
  { s with rb := s.rb.setIfInBounds s.rcnt.toNat b, rcnt := s.rcnt + 1, timer := BitVec.ofNat 13 t }

/-- The last two lines of R150: when the count is that of the response, decode it and end the transaction. -/
def afterRxByte (s : State) : Result :=
  match respLen s.op, respFormat s.op with
  | some n, some fmt =>
    if s.rcnt.toNat = n then complete (runDecoder fmt s).2 (runDecoder fmt s).1 else .next s
  | _, _ => .fault .respLenUndefined

/-- `RxByte(b)` (R150). -/
def rxByte (b : Byte) (s : State) : Result :=
  match s.tstate with
  | .idle => .refused .eventNotEnabled
  | .txf => .refused .eventNotEnabled
  | .txd => .refused .eventNotEnabled
  | .rx =>
    if s.rcnt.toNat < Config.verRespLen then
      match timeoutTicks s.op with
      | none => .fault .timeoutUndefined
      | some t => afterRxByte (storeByte b t s)
    else .fault .responseIndex

/-- `RxError` (R151). -/
def rxError (s : State) : Result :=
  match s.tstate with
  | .idle => .refused .eventNotEnabled
  | .txf => .refused .eventNotEnabled
  | .txd => .refused .eventNotEnabled
  | .rx => complete .eIoRx s

/-! ## The timer -/

/-- TIMER <- TIMER - 1 (R241). -/
def countDown (s : State) : State := { s with timer := s.timer - 1 }

/-- `Tick` (60_exceptions.md R241). -/
def tick (s : State) : Result :=
  match s.tstate with
  | .idle => .next s
  | .txf => .next s
  | .txd => .next s
  | .rx =>
    if (countDown s).timer = 0 then complete .eTimeout (countDown s) else .next (countDown s)

end Sys2Proof.Machine
end

