-- ==== Sys2Proof/Machine/Commands.lean ====
section
/-! DEFINITION. The meaning of the eight commands (spec/42_bootloader_commands.md R153 to R160): the host's `cmd`
operation of 30_encoding.md R86 in one step. Its sending, receiving and ending are the later events of Transaction.lean,
as R11 cuts them. The write flag of the frame is no input of the engine: R73, R142 (log 5). -/

namespace Sys2Proof.Machine

/-- `cmd MNEMONIC size, addr` (R86, R140): refused while busy; else the operands are loaded and the transaction starts
(log 4). -/
def runCommand (op : Byte) (size : Half) (addr : Addr) (s : State) : Result :=
  .next (if busy s then refuse s else issue op size addr s)

/-- GETVERSION (R153). -/
def execGetVersion (size : Half) (addr : Addr) (_wr : Bool) (s : State) : Result := runCommand Config.opGetVersion size addr s

/-- FLASHREAD (R154, R88): ends at once with E_UNSUP and sends nothing. -/
def execFlashRead (size : Half) (addr : Addr) (_wr : Bool) (s : State) : Result := runCommand Config.opFlashRead size addr s

/-- FLASHWRITE (R155): E_RANGE and nothing sent when the payload would leave the image. -/
def execFlashWrite (size : Half) (addr : Addr) (_wr : Bool) (s : State) : Result := runCommand Config.opFlashWrite size addr s

/-- FLASHERASE (R156). -/
def execFlashErase (size : Half) (addr : Addr) (_wr : Bool) (s : State) : Result := runCommand Config.opFlashErase size addr s

/-- CONFIGREAD (R157, R88): ends at once with E_UNSUP and sends nothing. -/
def execConfigRead (size : Half) (addr : Addr) (_wr : Bool) (s : State) : Result := runCommand Config.opConfigRead size addr s

/-- CONFIGWRITE (R158, R88): ends at once with E_UNSUP and sends nothing. -/
def execConfigWrite (size : Half) (addr : Addr) (_wr : Bool) (s : State) : Result := runCommand Config.opConfigWrite size addr s

/-- CHECKSUM (R159). -/
def execChecksum (size : Half) (addr : Addr) (_wr : Bool) (s : State) : Result := runCommand Config.opChecksum size addr s

/-- RESET, the device's reset command (R160). -/
def execReset (size : Half) (addr : Addr) (_wr : Bool) (s : State) : Result := runCommand Config.opReset size addr s

end Sys2Proof.Machine
end

