-- ==== Sys2Proof/Machine/Requests.lean ====
section
/-! DEFINITION. The control requests SRST, START and CMD (spec/43_session_sequencer.md R200, R201,
42_bootloader_commands.md R140). ENCODE and DECODE stand in Codec.lean, CSCLR, CSPUSH and CSRANGE in Checksum.lean. -/

namespace Sys2Proof.Machine

/-- SRST (R201): never refused. -/
def execSrst (s : State) : Result := .next (resetBlock s)

/-- FAIL_PHASE <- 0; FAIL_CAUSE <- 0 (R200). -/
def clearFailure (s : State) : State := { s with failPhase := .noPhase, failCause := .eNone }

/-- The accepted branch of START (R200). -/
def startSession (s : State) : State :=
  issue Config.opGetVersion 0 0 (enterPhase .query (setProgress 0 (setOffset 0 (clearFailure s))))

/-- START (R200): accepted in S_IDLE with no transaction in progress. -/
def execStart (s : State) : Result :=
  .next (if busy s ∨ s.sstate ≠ .idle then refuse s else startSession s)

/-- CMD (R140): one transaction with the operands that stand in OP, SIZE and ADDR. -/
def execCmd (s : State) : Result := .next (if busy s then refuse s else startTxn s)

end Sys2Proof.Machine
end

