-- ==== Sys2Proof/Machine/Responses.lean ====
section
/-! DEFINITION. The meaning of the three responses (spec/30_encoding.md R74 to R76): their bytes arrive at the block, one
`RxByte` after another with no tick between them (42_bootloader_commands.md R150), and what the block is not ready for
stays in the channel (20_memory.md R56). Which decoder runs is the sent opcode's choice (41_frame_codec.md R128; log 6).
The spec has no event for a whole response: which bytes go first when others already wait in the channel, and what counts as
the rest of a response, are the model's choice (DESIGN CHOICE, log 22); `step` never executes a response. -/

namespace Sys2Proof.Machine

/-- Bytes the block is not ready for wait in the channel, behind what waits there already (R56, R267). -/
def arrive (bs : List Byte) (s : State) : State := setPending (s.pending ++ bs.map Event.rxByte) s

/-- The bytes of RB received so far in this wait. -/
def received (s : State) : List Byte := s.rb.toList.take s.rcnt.toNat

/-- The bytes of a response that are still to come: a receive wait that has taken its beginning takes the rest, any other
takes the whole (DESIGN CHOICE, log 22). -/
def stillToCome (bs : List Byte) (s : State) : List Byte :=
  if s.tstate = .rx ∧ received s = bs.take s.rcnt.toNat then bs.drop s.rcnt.toNat else bs

/-- Deliver bytes one after another while the block is ready for them. DESIGN CHOICE (log 22): they go ahead of `RxByte`s that
already wait in `pending`, and what the block does not take goes behind those; R267 orders the bytes of a channel, and the
spec has no event that is a whole response. -/
def rxBytes : List Byte → State → Result
  | [], s => .next s
  | b :: bs, s => if s.tstate = .rx then andThen (rxByte b s) (rxBytes bs) else .next (arrive (b :: bs) s)

/-- A whole response reaches the block (logs 6 and 22). -/
def takeResponse (bs : List Byte) (s : State) : Result := rxBytes (stillToCome bs s) s

/-- RESP_VERSION (R74, R124). -/
def execRespVersion (header : List Byte) (version maxPkt unused14 devId unused18 : Half) (row latch : Byte) (cfg : Word)
    (s : State) : Result :=
  takeResponse (versionBytes header version maxPkt unused14 devId unused18 row latch cfg) s

/-- RESP_STATUS (R75, R125). -/
def execRespStatus (header : List Byte) (status : Byte) (s : State) : Result :=
  takeResponse (statusBytes header status) s

/-- RESP_CHECKSUM (R76, R126). -/
def execRespChecksum (header : List Byte) (csum : Half) (s : State) : Result :=
  takeResponse (csumBytes header csum) s

end Sys2Proof.Machine
end

