-- ==== Sys2Proof/Machine/Dispatch.lean ====
section
/-! DEFINITION. exec: one arm per instruction of spec/opcode_table.json. -/

namespace Sys2Proof.Machine

def exec (i : Instr) (s : State) : Host.Outcome State Fault Refusal :=
  match i with
  | .getVersion size addr wr => Sys2Proof.Machine.execGetVersion size addr wr s
  | .flashRead size addr wr => Sys2Proof.Machine.execFlashRead size addr wr s
  | .flashWrite size addr wr => Sys2Proof.Machine.execFlashWrite size addr wr s
  | .flashErase size addr wr => Sys2Proof.Machine.execFlashErase size addr wr s
  | .configRead size addr wr => Sys2Proof.Machine.execConfigRead size addr wr s
  | .configWrite size addr wr => Sys2Proof.Machine.execConfigWrite size addr wr s
  | .checksum size addr wr => Sys2Proof.Machine.execChecksum size addr wr s
  | .reset size addr wr => Sys2Proof.Machine.execReset size addr wr s
  | .respVersion header version maxPkt unused14 devId unused18 row latch cfg => Sys2Proof.Machine.execRespVersion header version maxPkt unused14 devId unused18 row latch cfg s
  | .respStatus header status => Sys2Proof.Machine.execRespStatus header status s
  | .respChecksum header csum => Sys2Proof.Machine.execRespChecksum header csum s
  | .srst => Sys2Proof.Machine.execSrst s
  | .start => Sys2Proof.Machine.execStart s
  | .cmd => Sys2Proof.Machine.execCmd s
  | .encodeFrame => Sys2Proof.Machine.execEncodeFrame s
  | .decodeFrame => Sys2Proof.Machine.execDecodeFrame s
  | .csClr => Sys2Proof.Machine.execCsClr s
  | .csRange => Sys2Proof.Machine.execCsRange s
  | .csPush b => Sys2Proof.Machine.execCsPush b s

end Sys2Proof.Machine
end

