-- ==== Sys2Proof/Machine/HostPort.lean ====
section
/-! DEFINITION. The host's register port (spec/10_state.md R36, R40 to R47): what each index is, reads, and the writes
that are no request. -/

namespace Sys2Proof.Machine

/-- The register map's access classes (R36). -/
def accessOf (i : Index) : Access :=
  if i = 0x00 then .strobe
  else if i = 0x01 then .readOnly
  else if i.toNat ≤ 0x05 then .readWrite
  else if i = 0x06 then .readOnly
  else if i = 0x07 then .writeOnly
  else if i.toNat ≤ 0x0F then .readOnly
  else if i.toNat ≤ 0x19 then .readWrite
  else if i.toNat ≤ 0x39 then .readOnly
  else .unmapped

/-- The FAIL word (R36): bit 3 reads 0. -/
def failWord (s : State) : Word := 0#24 ++ causeCode s.failCause ++ 0#1 ++ phaseCode s.failPhase

/-- The DEC0 word (R36). -/
def dec0Word (s : State) : Word := 0#21 ++ bit s.dKnown ++ bit s.dOk ++ bit s.dWr ++ s.dOp

/-- The INFO0 word (R36). -/
def info0Word (s : State) : Word := s.infoMaxpkt ++ s.infoVersion

/-- The INFO1 word (R36). -/
def info1Word (s : State) : Word := s.infoLatch ++ s.infoRow ++ s.infoDevid

/-- A register narrower than the port reads zero-extended (R36). -/
def zext {n : Nat} (v : BitVec n) : Word := v.setWidth 32

/-- What a read of an index returns (R36, R40, R41): 0 for a write-only or strobe register, none where no register is. -/
def readReg (i : Index) (s : State) : Option Word :=
  if i = 0x00 then some 0
  else if i = 0x01 then some (statusWord s)
  else if i = 0x02 then some (zext s.op)
  else if i = 0x03 then some (zext s.size)
  else if i = 0x04 then some (zext s.addr)
  else if i = 0x05 then some (zext (bit s.wr))
  else if i = 0x06 then some (zext (csValue s))
  else if i = 0x07 then some 0
  else if i = 0x08 then some (failWord s)
  else if i = 0x09 then some (zext s.offset)
  else if i = 0x0A then some (zext s.progress)
  else if i = 0x0B then some (zext s.rspStatus)
  else if i = 0x0C then some (zext s.rspCsum)
  else if i = 0x0D then some (info0Word s)
  else if i = 0x0E then some (info1Word s)
  else if i = 0x0F then some s.infoCfg
  else if i.toNat ≤ 0x19 then (s.fb[i.toNat - 0x10]?).map zext
  else if i = 0x1A then some (dec0Word s)
  else if i = 0x1B then some (zext s.dSize)
  else if i = 0x1C then some (zext s.dAddr)
  else if i = 0x1D then some (zext s.rcnt)
  else if i = 0x1E then some (zext s.timer)
  else if i = 0x1F then some (zext s.idx)
  else if i.toNat ≤ 0x39 then (s.rb[i.toNat - 0x20]?).map zext
  else none

/-- The value a read returns to the host. -/
def returnData (v : Word) (s : State) : State := { s with hostData := v }

/-- `HostRead(i)`: the value goes to the host and nothing changes (R40, R41), but an unmapped index returns 0 and is
refused (R46). -/
def hostRead (i : Index) (s : State) : State :=
  match readReg i s with
  | some v => returnData v s
  | none => refuse (returnData 0 s)

/-- Store the low bits of the value in an RW register (R43). -/
def storeOperand (i : Index) (v : Word) (s : State) : State :=
  if i = 0x02 then loadOp (v.extractLsb' 0 8) s
  else if i = 0x03 then loadSize (v.extractLsb' 0 16) s
  else if i = 0x04 then loadAddr (v.extractLsb' 0 24) s
  else if i = 0x05 then loadWr (v.getLsbD 0) s
  else loadFb (i.toNat - 0x10) (v.extractLsb' 0 8) s

/-- `HostWrite(i, v)` that is no request: a CTRL write with no strobe does nothing, one with several is refused (R37);
an RW register is written unless the block is busy (R43, R44); a read-only or unmapped index is refused (R42, R46).
A CSDATA write is always a request (R104), so its class does not come here. -/
def hostWriteOther (i : Index) (v : Word) (s : State) : State :=
  match accessOf i with
  | .strobe => if v.extractLsb' 0 7 = 0#7 then s else refuse s
  | .readWrite => if busy s then refuse s else storeOperand i v s
  | .writeOnly => refuse s
  | .readOnly => refuse s
  | .unmapped => refuse s

end Sys2Proof.Machine
end

