-- ==== Sys2Proof/Machine/Events.lean ====
section
/-! DEFINITION. The events (spec/00_scope.md R11): when each is enabled, which pending one happens next, what one that is
no instruction does, and the order of events seen at once (spec/60_exceptions.md R235). -/

namespace Sys2Proof.Machine

/-- In which states an event is enabled (R11, R40, R55, R56, R59, R260). -/
def enabled (e : Event) (s : State) : Bool :=
  match e with
  | .reset => true
  | .hostWrite _ _ => true
  | .hostRead _ => true
  | .txAccept => s.tstate == .txf || s.tstate == .txd
  | .txFail => s.tstate == .txf || s.tstate == .txd
  | .rxByte _ => s.tstate == .rx
  | .rxError => s.tstate == .rx
  | .tick => true

/-- The oldest event of a list that is enabled, and the list without it; the others stay where they are: "a byte the
device sends when the block is not ready stays in the channel" (R56; log 1). -/
def oldestEnabled (s : State) : List Event → Option (Event × List Event)
  | [] => none
  | e :: es =>
    if enabled e s then some (e, es)
    else match oldestEnabled s es with
      | none => none
      | some (e', es') => some (e', e :: es')

/-- The event that happens next and the state from which it has been taken. -/
def takeEvent (s : State) : Option (Event × State) :=
  match oldestEnabled s s.pending with
  | none => none
  | some (e, es) => some (e, setPending es s)

/-- The instruction an event makes the block execute: a host write that is a request (30_encoding.md R82). -/
def fetch : Event → Except DecodeError Instr
  | .reset => .error .notRequest
  | .hostWrite i v => decodeHostWrite i v
  | .hostRead _ => .error .notRequest
  | .txAccept => .error .notRequest
  | .txFail => .error .notRequest
  | .rxByte _ => .error .notRequest
  | .rxError => .error .notRequest
  | .tick => .error .notRequest

/-- What an event that is no instruction does. -/
def perform (e : Event) (s : State) : Result :=
  match e with
  | .reset => .next (resetBlock s)
  | .hostWrite i v => .next (hostWriteOther i v s)
  | .hostRead i => .next (hostRead i s)
  | .txAccept => txAccept s
  | .txFail => txFail s
  | .rxByte b => rxByte b s
  | .rxError => rxError s
  | .tick => tick s

/-! ## Events of one clock period -/

/-- A `HostWrite` of SRST (R201, R235). -/
def isSrst : Event → Bool
  | .hostWrite i v => i == ctrlIndex && v.getLsbD 0
  | _ => false

/-- The rank of R235, most urgent first. -/
def urgency (e : Event) : Nat :=
  if isSrst e then 1
  else match e with
    | .reset => 0
    | .rxError => 2
    | .rxByte _ => 3
    | .tick => 4
    | .txFail => 5
    | .txAccept => 6
    | .hostWrite _ _ => 7
    | .hostRead _ => 7

/-- Put an event before the first one that is less urgent. -/
def insertByUrgency (e : Event) : List Event → List Event
  | [] => [e]
  | x :: xs => if urgency e ≤ urgency x then e :: x :: xs else x :: insertByUrgency e xs

/-- The order in which a realisation takes the events of one clock period (R235); equally urgent ones keep their order
(log 17). -/
def orderPeriod : List Event → List Event
  | [] => []
  | e :: es => insertByUrgency e (orderPeriod es)

end Sys2Proof.Machine
end

