-- ==== Sys2Proof/Machine/Fetch.lean ====
section
/-! DEFINITION. How a word of the opcode table is placed so that the next step runs it (log 2, log 3). The block fetches
from no memory (spec/20_memory.md R54): a request is a host write, a command runs when CMD is written with its operands
in place, and a response runs when its last byte arrives in the receive wait of its command. -/

namespace Sys2Proof.Machine

/-- An event becomes the oldest pending one. -/
def raiseFirst (e : Event) (s : State) : State := setPending (e :: s.pending) s

/-- Put a command's operands in place and have the host write CMD. -/
def placeFrame (bs : List Byte) (s : State) : State :=
  match bs with
  | [f0, f1, f2, f3, f4, f5, f6, f7, f8, f9] =>
    let d := decodeCmd #v[f0, f1, f2, f3, f4, f5, f6, f7, f8, f9]
    raiseFirst (.hostWrite ctrlIndex 0x04) (loadOperands d.op d.size d.addr s)
  | _ => s

/-- An opcode whose response has the format. -/
def opcodeFor : RespFormat → Byte
  | .version => Config.opGetVersion
  | .status => Config.opFlashWrite
  | .csum => Config.opChecksum

/-- Store bytes in RB from an index upward. -/
def storeFrom (rb : RespBuf) (k : Nat) : List Byte → RespBuf
  | [] => rb
  | b :: bs => storeFrom (rb.setIfInBounds k b) (k + 1) bs

/-- Put the block into the receive wait of a format with all bytes but the last received, and have the last arrive. -/
def placeResponse (fmt : RespFormat) (bs : List Byte) (s : State) : State :=
  match bs.getLast? with
  | none => s
  | some b =>
    raiseFirst (.rxByte b)
      { s with
        tstate := .rx
        op := opcodeFor fmt
        rb := storeFrom s.rb 0 bs.dropLast
        rcnt := BitVec.ofNat 5 (bs.length - 1)
        timer := BitVec.ofNat 13 Config.tShort }

/-- Place a code so that the next step runs it. -/
def placeCode (c : Code) (s : State) : State :=
  match c with
  | .frame bs => placeFrame bs s
  | .response fmt bs => placeResponse fmt bs s
  | .hostWrite i v => raiseFirst (.hostWrite i v) s

end Sys2Proof.Machine
end

