-- ==== Sys2Proof/Machine/Step.lean ====
section
/-! DEFINITION. One step: the oldest enabled event happens (spec/00_scope.md R11); while none is pending nothing changes
(R11, R12, the waits of 70_reset_and_hazards.md R270 and R271). -/

namespace Sys2Proof.Machine

/-- One step of the machine. -/
def step (s : State) : Host.Outcome State Fault Refusal :=
  match takeEvent s with
  | none => .next s
  | some (e, t) =>
    match fetch e with
    | .ok i => exec i t
    | .error _ => perform e t

/-- The state with the instruction of a table word placed where the next step takes it (log 2, log 3). -/
def State.withFetchWord (s : State) (nbits w : Nat) : State := placeCode (tableCode nbits w) s

end Sys2Proof.Machine
end

