-- ==== Sys2Proof/Safety.lean ====
section
/-! DEFINITION. What a good state is (the invariant `Inv`), which way a session can move, and the few functions the
claims are written with. -/

namespace Sys2Proof.Machine

/-! ## The transaction engine -/

/-- A transaction in progress: an opcode the engine runs, a FlashWrite range inside the image, an index inside what is
being sent with no response byte yet, a count short of the response and a timer that has not run out (spec/42_bootloader_commands.md R145 to R150,
60_exceptions.md R241). -/
abbrev TxnInv (s : State) : Prop :=
  (s.tstate = .txf → supported s.op = true ∧ s.idx.toNat < Config.frameLen ∧ s.rcnt = 0 ∧
    (s.op = Config.opFlashWrite → inImage s.addr.toNat s.size.toNat = true)) ∧
  (s.tstate = .txd → s.op = Config.opFlashWrite ∧ s.idx.toNat < s.size.toNat ∧ s.rcnt = 0 ∧
    inImage s.addr.toNat s.size.toNat = true) ∧
  (s.tstate = .rx → s.rcnt.toNat < (respLen s.op).getD 0 ∧ 1 ≤ s.timer.toNat ∧
    s.timer.toNat ≤ (timeoutTicks s.op).getD 0)

/-! ## The session -/

/-- An address of R206: 0x800 + k * 0x80 inside the window. -/
abbrev pageAddr (o : Addr) : Prop :=
  Config.winStart ≤ o.toNat ∧ o.toNat < Config.winEnd ∧ (o.toNat - Config.winStart) % Config.page = 0

/-- The two window starts of R216. -/
abbrev windowStart (o : Addr) : Prop := o = 0x000800 ∨ o = 0x0107F0

/-- The end of the verified range, where OFFSET stands from the reset phase on (R209, R217). -/
abbrev verifiedEnd : Addr := 0x01FFFE

/-- The sentinel stands in the last byte of the window (20_memory.md R52, R65). -/
abbrev sentinelSet (s : State) : Prop := cellRead s.img (Config.winEnd - 1) = Config.sentinel

/-- The pairs of 60_exceptions.md R233. -/
def failurePair : Phase → Cause → Bool
  | .query, .eTimeout | .query, .eIoTx | .query, .eIoRx => true
  | .erase, .eParam | .erase, .eTimeout | .erase, .eIoTx | .erase, .eIoRx | .erase, .eProtocol => true
  | .write, .eTimeout | .write, .eIoTx | .write, .eIoRx | .write, .eProtocol => true
  | .verify, .eTimeout | .verify, .eIoTx | .verify, .eIoRx | .verify, .eCsum => true
  | .reset, .eIoTx => true
  | _, _ => false

/-- Where OFFSET stands after a failure in a phase (R236). -/
abbrev failureOffset (s : State) : Prop :=
  ((s.failPhase = .query ∨ s.failPhase = .erase) → s.offset = 0) ∧
  (s.failPhase = .write → pageAddr s.offset) ∧
  (s.failPhase = .verify → windowStart s.offset) ∧
  (s.failPhase = .reset → s.offset = verifiedEnd)

/-- No failure is recorded (R31, R200, R236). -/
abbrev noFailure (s : State) : Prop := s.failPhase = .noPhase ∧ s.failCause = .eNone

/-- The command the session has in flight is the phase's own, and OFFSET and PROGRESS stand where the phase puts them
(43_session_sequencer.md R200 to R217, 60_exceptions.md R233, R236). -/
abbrev SessInv (s : State) : Prop :=
  (sessionActive s.sstate = true → s.tstate ≠ .idle) ∧
  (s.sstate ≠ .failed → noFailure s) ∧
  (s.sstate = .idle → s.offset = 0 ∧ s.progress = 0) ∧
  (s.sstate = .query → s.op = Config.opGetVersion ∧ s.size = 0 ∧ s.addr = 0 ∧ s.offset = 0 ∧ s.progress = 0) ∧
  (s.sstate = .erase → s.op = Config.opFlashErase ∧ s.size.toNat = eraseRows s.infoRow ∧ s.addr = 0x000800 ∧ s.offset = 0 ∧
    s.progress = 0) ∧
  (s.sstate = .write → s.op = Config.opFlashWrite ∧ s.size = 0x0080 ∧ s.addr = s.offset ∧ pageAddr s.offset ∧
    s.progress = progressAt s.offset ∧ sentinelSet s) ∧
  (s.sstate = .verify → s.op = Config.opChecksum ∧ s.size = verifyLen s.offset ∧ s.addr = s.offset ∧ windowStart s.offset ∧
    s.progress = 100 ∧ sentinelSet s) ∧
  (s.sstate = .reset → s.op = Config.opReset ∧ s.size = 0 ∧ s.addr = 0 ∧ s.offset = verifiedEnd ∧ s.progress = 100 ∧
    sentinelSet s) ∧
  (s.sstate = .done → s.offset = verifiedEnd ∧ s.progress = 100 ∧ sentinelSet s) ∧
  (s.sstate = .failed → failurePair s.failPhase s.failCause = true ∧ failureOffset s)

/-- The invariant: IMG is in canonical form, and the engine and the session are where the rules can put them. -/
abbrev Inv (s : State) : Prop := Memory.wf s.img = true ∧ TxnInv s ∧ SessInv s

/-- The moves of SSTATE in a step that is no reset (R213): stay, the next phase, or failure out of a running phase. -/
def sessionMove : SState → SState → Bool
  | .idle, .idle | .idle, .query => true
  | .query, .query | .query, .erase | .query, .failed => true
  | .erase, .erase | .erase, .write | .erase, .failed => true
  | .write, .write | .write, .verify | .write, .failed => true
  | .verify, .verify | .verify, .reset | .verify, .failed => true
  | .reset, .reset | .reset, .done | .reset, .failed => true
  | .done, .done | .failed, .failed => true
  | _, _ => false

/-! ## Functions the claims are written with -/

/-- `w_0 + w_1 + ...` of R106: each pair of bytes read as a little-endian 16-bit word, a trailing byte ignored. -/
def wordSum : List Byte → Nat
  | x :: y :: rest => x.toNat + 256 * y.toNat + wordSum rest
  | _ => 0

/-- The image bytes `base .. base + len - 1`, each read by itself. -/
def imageBytes (m : Memory) (base len : Nat) : List Byte := (List.range len).map fun k => cellRead m (base + k)

/-- How many of the strobe bits 6:0 of a written CTRL value are set (10_state.md R37). -/
def strobeCount (v : Word) : Nat := (List.range 7).countP v.getLsbD

/-- Ticks a receive wait can still last (70_reset_and_hazards.md R268): the current wait and a full one for each byte
still to come after the next. -/
def ticksLeft (s : State) : Nat :=
  if s.tstate = .rx then
    s.timer.toNat + ((respLen s.op).getD 0 - s.rcnt.toNat - 1) * (timeoutTicks s.op).getD 0
  else 0

/-- The bytes of the `RxByte` events of a list, in order. -/
def receivedBytes : List Event → List Byte
  | [] => []
  | .rxByte b :: es => b :: receivedBytes es
  | _ :: es => receivedBytes es

/-- `k` steps of the machine. -/
def runSteps (k : Nat) (s : State) : Result := Host.Core.run Sys2Proof.core k s

end Sys2Proof.Machine
end

