-- ==== Sys2Proof/Certificates/Slice0/Obligations.lean ====
section
/-! DEFINITION. The statements for the provers. A conclusion `… = .next { s with … }` is the instruction's result, its
frame (every field not named is unchanged, IMG and what stands outside the block among them) and its completion in one. -/

open Sys2Proof Sys2Proof.Machine

/-! ## Reset -/

/-- 70_reset_and_hazards.md R260, R262 and 43_session_sequencer.md R201: `Reset` is always enabled, a CTRL write with bit 0
set is SRST whatever its other bits, both have the same effect, in every state: every register of R20 is zero, and IMG and
the channel are not touched. STATUS reads 0x00002000, the outputs are 0, no byte is offered and the block is not ready to
receive: R261, which the spec marks [derived: from R260 and R38]. That `hostData` is kept is the model's choice (log 9), as
are the record `sent` (log 10) and the place of the parameter (log 7). -/
def Obligations.ResetZeroesEveryRegister : Prop :=
  ∀ s : State, enabled .reset s = true ∧
    (∀ v : Word, v.getLsbD 0 = true → enabled (.hostWrite 0x00 v) s = true ∧ decodeHostWrite 0x00 v = .ok .srst) ∧
    exec .srst s = perform .reset s ∧
    ∃ t, exec .srst s = .next t ∧
      t.csA = 0 ∧ t.csB = 0 ∧ t.csH = 0 ∧ t.csPh = false ∧ t.op = 0 ∧ t.size = 0 ∧ t.addr = 0 ∧ t.wr = false ∧
      (∀ k : Fin 10, t.fb[k] = 0) ∧ (∀ k : Fin 26, t.rb[k] = 0) ∧ t.rcnt = 0 ∧
      t.dOp = 0 ∧ t.dSize = 0 ∧ t.dAddr = 0 ∧ t.dWr = false ∧ t.dOk = false ∧ t.dKnown = false ∧
      t.rspStatus = 0 ∧ t.rspCsum = 0 ∧ t.infoVersion = 0 ∧ t.infoMaxpkt = 0 ∧ t.infoDevid = 0 ∧ t.infoRow = 0 ∧
      t.infoLatch = 0 ∧ t.infoCfg = 0 ∧ t.infoValid = false ∧ tstateCode t.tstate = 0 ∧ t.idx = 0 ∧ t.timer = 0 ∧
      causeCode t.tres = 0 ∧ sstateCode t.sstate = 0 ∧ phaseCode t.failPhase = 0 ∧ causeCode t.failCause = 0 ∧
      t.offset = 0 ∧ t.progress = 0 ∧ t.herr = false ∧
      readReg 0x01 t = some 0x00002000#32 ∧ outputs t = (false, false, false, 0) ∧ txByte t = none ∧
      enabled .rxError t = false ∧
      t.img = s.img ∧ t.pending = s.pending ∧ t.sent = s.sent ∧ t.hostData = s.hostData ∧ t.params = s.params

/-! ## The checksum engine -/

/-- 40_checksum_engine.md R103: CSCLR. -/
def Obligations.CsClrResult : Prop :=
  decodeHostWrite 0x00 0x20 = .ok .csClr ∧
  ∀ s : State,
    (busy s = true → exec .csClr s = .next { s with herr := true }) ∧
    (busy s = false → exec .csClr s = .next { s with csA := 0, csB := 0, csH := 0, csPh := false })

/-- R104: CSPUSH b, with `t` the 9-bit sum and `u` the 10-bit sum of R102; bits 31:8 of the written value are ignored. -/
def Obligations.CsPushResult : Prop :=
  ∀ (s : State) (b : Byte) (v : Word),
    decodeHostWrite 0x07 v = .ok (.csPush (v.extractLsb' 0 8)) ∧
    (busy s = true → exec (.csPush b) s = .next { s with herr := true }) ∧
    (busy s = false → s.csPh = false → exec (.csPush b) s = .next { s with csH := b, csPh := true }) ∧
    (busy s = false → s.csPh = true → exec (.csPush b) s = .next { s with
      csA := BitVec.ofNat 8 (s.csA.toNat + s.csH.toNat)
      csB := BitVec.ofNat 8 (s.csB.toNat + b.toNat + (s.csA.toNat + s.csH.toNat) / 256)
      csPh := false })

/-- R105: CSRANGE refuses a busy block and a range that leaves the image; else it pushes the bytes ADDR .. ADDR+SIZE-1
one after another, writes the engine's registers only, and CS_PH becomes CS_PH xor SIZE[0]. -/
def Obligations.CsRangeResult : Prop :=
  decodeHostWrite 0x00 0x40 = .ok .csRange ∧
  ∀ s : State,
    (busy s = true → exec .csRange s = .next { s with herr := true }) ∧
    (busy s = false → 0x100000 < s.addr.toNat + s.size.toNat → exec .csRange s = .next { s with herr := true }) ∧
    (busy s = false → s.addr.toNat + s.size.toNat ≤ 0x100000 →
      exec .csRange s = .next { s with
        csA := ((imageBytes s.img s.addr.toNat s.size.toNat).foldl csPushByte s).csA
        csB := ((imageBytes s.img s.addr.toNat s.size.toNat).foldl csPushByte s).csB
        csH := ((imageBytes s.img s.addr.toNat s.size.toNat).foldl csPushByte s).csH
        csPh := s.csPh ^^ s.size.getLsbD 0 })

/-- R100: the function, pair by pair from the left; a trailing single byte has no effect. -/
def Obligations.ChecksumPairByPair : Prop :=
  checksum [] = 0 ∧
  ∀ data : List Byte, data.length % 2 = 0 → ∀ x y : Byte,
    checksum (data ++ [x]) = checksum data ∧
    ((checksum (data ++ [x, y])).toNat =
      256 * (((checksum data).toNat / 256 + x.toNat) % 256) +
        ((checksum data).toNat % 256 + y.toNat + ((checksum data).toNat / 256 + x.toNat) / 256) % 256)

/-- R106 and R107 (the spec marks both as derived): the function is the byte-swapped 16-bit sum of the little-endian
words, so permuting whole pairs does not change it. -/
def Obligations.ChecksumIsSwappedWordSum : Prop :=
  (∀ data : List Byte,
    (checksum data).toNat = 256 * (wordSum data % 65536 % 256) + wordSum data % 65536 / 256) ∧
  (∀ ps qs : List (Byte × Byte), ps.Perm qs →
    checksum (ps.flatMap fun p => [p.1, p.2]) = checksum (qs.flatMap fun p => [p.1, p.2]))

/-- R102 and R108 (derived): pushing after a clear gives the function of the whole sequence, in whatever pieces it is
pushed, and CS_PH is its length modulo 2. -/
def Obligations.StreamingEngineComputesChecksum : Prop :=
  ∀ (s : State) (pieces : List (List Byte)),
    csValue (pieces.foldl (fun t p => csPushAll p t) (csClear s)) = checksum pieces.flatten ∧
    (pieces.foldl (fun t p => csPushAll p t) (csClear s)).csPh = decide (pieces.flatten.length % 2 = 1)

/-! ## The frame codec -/

/-- 41_frame_codec.md R120 with the bytes of R121: ENCODE. -/
def Obligations.EncodeResult : Prop :=
  decodeHostWrite 0x00 0x08 = .ok .encodeFrame ∧
  ∀ s : State,
    (busy s = true → exec .encodeFrame s = .next { s with herr := true }) ∧
    (busy s = false → exec .encodeFrame s = .next { s with fb := #v[0x55, s.op, s.size.extractLsb' 0 8,
      s.size.extractLsb' 8 8, if s.wr then 0x55 else 0x00, if s.wr then 0xAA else 0x00,
      s.addr.extractLsb' 0 8, s.addr.extractLsb' 8 8, s.addr.extractLsb' 16 8, 0x00] })

/-- R122 with the function of R123: DECODE. -/
def Obligations.DecodeResult : Prop :=
  decodeHostWrite 0x00 0x10 = .ok .decodeFrame ∧
  ∀ s : State,
    (busy s = true → exec .decodeFrame s = .next { s with herr := true }) ∧
    (busy s = false → exec .decodeFrame s = .next { s with
      dOp := s.fb[1]
      dSize := s.fb[3] ++ s.fb[2]
      dAddr := s.fb[8] ++ s.fb[7] ++ s.fb[6]
      dWr := decide (s.fb[4] = 0x55 ∧ s.fb[5] = 0xAA)
      dOk := decide (s.fb[0] = 0x55 ∧ s.fb[9] = 0x00 ∧
        ((s.fb[4] = 0x55 ∧ s.fb[5] = 0xAA) ∨ (s.fb[4] = 0x00 ∧ s.fb[5] = 0x00)))
      dKnown := decide (s.fb[1] ∈ ([0x00, 0x01, 0x02, 0x03, 0x06, 0x07, 0x08, 0x09] : List Byte)) })

/-- R127 (derived): ENCODE then DECODE recovers the four operands with D_OK = 1, and a frame that DECODE finds well
formed is what ENCODE builds from the fields DECODE recovers. -/
def Obligations.EncodeDecodeRoundTrip : Prop :=
  (∀ s t u : State, busy s = false → exec .encodeFrame s = .next t → exec .decodeFrame t = .next u →
    u.dOp = s.op ∧ u.dSize = s.size ∧ u.dAddr = s.addr ∧ u.dWr = s.wr ∧ u.dOk = true) ∧
  (∀ s t : State, busy s = false → exec .decodeFrame s = .next t → t.dOk = true →
    exec .encodeFrame { t with op := t.dOp, size := t.dSize, addr := t.dAddr, wr := t.dWr } =
      .next { t with op := t.dOp, size := t.dSize, addr := t.dAddr, wr := t.dWr })

/-! ## Encodings -/

/-- Decoding the encoding of a well-formed instruction gives it back, for every row of the opcode table. -/
def Obligations.DecodeOfEncode : Prop :=
  ∀ i : Instr, WellFormed i = true → decode (encode i) = .ok i

/-- The other direction where every bit counts: a frame and a response are the encoding of what they decode to, which
is well formed; and the frames that decode are exactly those for which DECODE reports D_OK and D_KNOWN (30_encoding.md
R72, R81). -/
def Obligations.EncodeOfDecode : Prop :=
  (∀ (bs : List Byte) (i : Instr), decode (.frame bs) = .ok i → encode i = .frame bs ∧ WellFormed i = true) ∧
  (∀ (fmt : RespFormat) (bs : List Byte) (i : Instr), decode (.response fmt bs) = .ok i →
    encode i = .response fmt bs ∧ WellFormed i = true) ∧
  (∀ f : Frame, (∃ i, decode (.frame f.toList) = .ok i) ↔ ((decodeCmd f).ok = true ∧ (decodeCmd f).known = true))

/-- Words written out from 30_encoding.md R70, R74 to R76 and R82 decode to what they stand for. -/
def Obligations.WrittenOutWordsDecode : Prop :=
  decode (.frame [0x55, 0x03, 0x64, 0x00, 0x55, 0xAA, 0x00, 0x08, 0x00, 0x00]) = .ok (.flashErase 100 0x800 true) ∧
  decode (.frame [0x55, 0x08, 0x0E, 0xF8, 0x00, 0x00, 0xF0, 0x07, 0x01, 0x00]) = .ok (.checksum 0xF80E 0x107F0 false) ∧
  decode (.response .csum [0x55, 0x08, 0xF0, 0xFF, 0x00, 0x00, 0x00, 0x08, 0x00, 0x00, 0x08, 0x80]) =
    .ok (.respChecksum [0x55, 0x08, 0xF0, 0xFF, 0x00, 0x00, 0x00, 0x08, 0x00, 0x00] 0x0880) ∧
  decode (.hostWrite 0x00 0x40) = .ok .csRange ∧
  decode (.hostWrite 0x07 0x12345678) = .ok (.csPush 0x78) ∧
  decode (.frame [0x55, 0x04, 0x00, 0x00, 0x00, 0x00, 0x00, 0x00, 0x00, 0x00]) = .error .reservedOpcode

/-- 10_state.md R37: what a CTRL write does, for every written value. -/
def Obligations.CtrlWriteSelectsRequest : Prop :=
  ∀ (s : State) (v : Word) (rest : List Event),
    (strobeCount v = 0 →
      step { s with pending := .hostWrite 0x00 v :: rest } = .next { s with pending := rest }) ∧
    (v.getLsbD 0 = true →
      step { s with pending := .hostWrite 0x00 v :: rest } = exec .srst { s with pending := rest }) ∧
    (v.getLsbD 0 = false → 2 ≤ strobeCount v →
      step { s with pending := .hostWrite 0x00 v :: rest } = .next { s with pending := rest, herr := true }) ∧
    (strobeCount v = 1 → ∀ k : Fin 7, v.getLsbD k = true →
      step { s with pending := .hostWrite 0x00 v :: rest } =
        exec ([Instr.srst, .start, .cmd, .encodeFrame, .decodeFrame, .csClr, .csRange][k]) { s with pending := rest })

/-! ## Commands -/

/-- 42_bootloader_commands.md R141, R142, R143, R144: the tables of the engine. -/
def Obligations.EngineTables : Prop :=
  (∀ op : Byte, supported op = true ↔ op ∈ ([0x00, 0x02, 0x03, 0x08, 0x09] : List Byte)) ∧
  (∀ (p : Bool) (op : Byte), wrOf p op =
    (decide (op = 0x02) || (decide (op = 0x03) && p) || decide (op = 0x07))) ∧
  respLen 0x00 = some 26 ∧ respLen 0x02 = some 11 ∧ respLen 0x03 = some 11 ∧ respLen 0x08 = some 12 ∧
  respLen 0x09 = some 0 ∧ (∀ op, supported op = false → respLen op = none) ∧
  timeoutTicks 0x00 = some 1000 ∧ timeoutTicks 0x02 = some 1000 ∧ timeoutTicks 0x03 = some 5000 ∧
  timeoutTicks 0x08 = some 1000 ∧ timeoutTicks 0x09 = none ∧ (∀ op, supported op = false → timeoutTicks op = none)

/-- R140 and R145: CMD is refused while busy; else the transaction ends at once with E_UNSUP or E_RANGE, or starts. -/
def Obligations.CmdResult : Prop :=
  decodeHostWrite 0x00 0x04 = .ok .cmd ∧
  ∀ s : State,
    (busy s = true → exec .cmd s = .next { s with herr := true }) ∧
    (busy s = false → supported s.op = false → exec .cmd s = .next { s with tres := .eUnsup, tstate := .idle }) ∧
    (busy s = false → s.op = 0x02 → 0x100000 < s.addr.toNat + s.size.toNat →
      exec .cmd s = .next { s with tres := .eRange, tstate := .idle }) ∧
    (busy s = false → supported s.op = true → (s.op = 0x02 → s.addr.toNat + s.size.toNat ≤ 0x100000) →
      exec .cmd s = .next { s with
        wr := wrOf s.params.eraseWr s.op
        fb := frameOf s.op s.size s.addr (wrOf s.params.eraseWr s.op)
        idx := 0
        rcnt := 0
        tres := .eNone
        infoValid := if s.op = 0x00 then false else s.infoValid
        tstate := .txf })

/-- R161: a reserved opcode value is not run, is encoded, and is reported as not known. -/
def Obligations.ReservedOpcodes : Prop :=
  ∀ s : State, busy s = false → (s.op = 0x04 ∨ s.op = 0x05 ∨ 0x0A ≤ s.op.toNat) →
    exec .cmd s = .next { s with tres := .eUnsup, tstate := .idle } ∧
    (∃ t, exec .encodeFrame s = .next t ∧ t.fb[1] = s.op ∧
      ∃ u, exec .decodeFrame t = .next u ∧ u.dOp = s.op ∧ u.dKnown = false)

/-- GETVERSION, FLASHERASE, CHECKSUM and RESET start their transaction from every state that is not busy: operands in
OP, SIZE and ADDR, the flag of `wr_of` whatever flag the frame carries, and the frame in FB (R153, R156, R159, R160 through
R145; that running a command loads its operands first is 30_encoding.md R86 and log 4, that the frame's own flag does
not count is R73 and log 5). -/
def Obligations.RunCommandsStart : Prop :=
  ∀ (s : State) (size : Half) (addr : Addr) (wr : Bool), busy s = false →
    exec (.getVersion size addr wr) s = .next { s with
      op := 0x00, size := size, addr := addr, wr := false, fb := frameOf 0x00 size addr false, idx := 0, rcnt := 0,
      tres := .eNone, infoValid := false, tstate := .txf } ∧
    exec (.flashErase size addr wr) s = .next { s with
      op := 0x03, size := size, addr := addr, wr := s.params.eraseWr, fb := frameOf 0x03 size addr s.params.eraseWr,
      idx := 0, rcnt := 0, tres := .eNone, tstate := .txf } ∧
    exec (.checksum size addr wr) s = .next { s with
      op := 0x08, size := size, addr := addr, wr := false, fb := frameOf 0x08 size addr false, idx := 0, rcnt := 0,
      tres := .eNone, tstate := .txf } ∧
    exec (.reset size addr wr) s = .next { s with
      op := 0x09, size := size, addr := addr, wr := false, fb := frameOf 0x09 size addr false, idx := 0, rcnt := 0,
      tres := .eNone, tstate := .txf }

/-- FLASHWRITE: E_RANGE and nothing sent when ADDR + SIZE leaves the image, else the transaction starts (R155, R145; logs 4
and 5). -/
def Obligations.FlashWriteStartsOrLeavesTheImage : Prop :=
  ∀ (s : State) (size : Half) (addr : Addr) (wr : Bool), busy s = false →
    (0x100000 < addr.toNat + size.toNat → exec (.flashWrite size addr wr) s = .next { s with
      op := 0x02, size := size, addr := addr, tres := .eRange, tstate := .idle }) ∧
    (addr.toNat + size.toNat ≤ 0x100000 → exec (.flashWrite size addr wr) s = .next { s with
      op := 0x02, size := size, addr := addr, wr := true, fb := frameOf 0x02 size addr true, idx := 0, rcnt := 0,
      tres := .eNone, tstate := .txf })

/-- FLASHREAD, CONFIGREAD and CONFIGWRITE end at once with E_UNSUP and send nothing; HERR is not set (R88, R154, R157,
R158; log 4). -/
def Obligations.UnrunCommandsEndAtOnce : Prop :=
  ∀ (s : State) (size : Half) (addr : Addr) (wr : Bool), busy s = false →
    exec (.flashRead size addr wr) s = .next { s with
      op := 0x01, size := size, addr := addr, tres := .eUnsup, tstate := .idle } ∧
    exec (.configRead size addr wr) s = .next { s with
      op := 0x06, size := size, addr := addr, tres := .eUnsup, tstate := .idle } ∧
    exec (.configWrite size addr wr) s = .next { s with
      op := 0x07, size := size, addr := addr, tres := .eUnsup, tstate := .idle }

/-- 10_state.md R44: while BUSY = 1 every request but SRST and every write to an operand, the frame buffer or CSDATA sets
HERR and changes nothing else. -/
def Obligations.BusyRefusesAllButSrst : Prop :=
  ∀ s : State, busy s = true →
    (∀ i ∈ [Instr.start, .cmd, .encodeFrame, .decodeFrame, .csClr, .csRange], exec i s = .next { s with herr := true }) ∧
    (∀ b, exec (.csPush b) s = .next { s with herr := true }) ∧
    (∀ (i : Index) (v : Word), (2 ≤ i.toNat ∧ i.toNat ≤ 5) ∨ (0x10 ≤ i.toNat ∧ i.toNat ≤ 0x19) →
      perform (.hostWrite i v) s = .next { s with herr := true }) ∧
    (∃ t, exec .srst s = .next t ∧ t.herr = false)

/-- A command of the host is its operands and a write of CMD (30_encoding.md R86 with R44, R140; log 4): refused while
busy with the operands left alone, else CMD run with OP, SIZE and ADDR loaded. -/
def Obligations.CommandIsOperandsThenCmd : Prop :=
  ∀ (s : State) (op : Byte) (size : Half) (addr : Addr) (wr : Bool) (i : Instr), commandOf op size addr wr = some i →
    (busy s = true → exec i s = .next { s with herr := true }) ∧
    (busy s = false → exec i s = exec .cmd { s with op := op, size := size, addr := addr })

/-! ## Events of a transaction -/

/-- R146 and R147: `TxAccept`. In T_TXF the byte of FB joins the output and IDX moves on; with the tenth, a FlashWrite with
a payload goes to T_TXD, and everything else is done sending. In T_TXD the image byte at ADDR + IDX joins the output; with
the last one sending is done. -/
def Obligations.TxAcceptResult : Prop :=
  (∀ (s : State) (h : s.idx.toNat < 10), s.tstate = .txf →
    (s.idx.toNat < 9 → txAccept s = .next { s with sent := s.sent ++ [s.fb[s.idx.toNat]], idx := s.idx + 1 }) ∧
    (s.idx.toNat = 9 → s.op = 0x02 → s.size ≠ 0 →
      txAccept s = .next { s with sent := s.sent ++ [s.fb[s.idx.toNat]], idx := 0, tstate := .txd }) ∧
    (s.idx.toNat = 9 → (s.op ≠ 0x02 ∨ s.size = 0) →
      txAccept s = txDone { s with sent := s.sent ++ [s.fb[s.idx.toNat]], idx := s.idx + 1 })) ∧
  (∀ s : State, s.tstate = .txd → s.addr.toNat + s.idx.toNat < 0x100000 →
    (s.idx + 1 ≠ s.size → txAccept s = .next { s with
      sent := s.sent ++ [cellRead s.img (s.addr.toNat + s.idx.toNat)], idx := s.idx + 1 }) ∧
    (s.idx + 1 = s.size → txAccept s = txDone { s with
      sent := s.sent ++ [cellRead s.img (s.addr.toNat + s.idx.toNat)], idx := s.idx + 1 }))

/-- R148: `tx_done()`. -/
def Obligations.TxDoneResult : Prop :=
  ∀ s : State,
    (s.op = 0x09 → txDone s = complete .eNone s) ∧
    (s.op = 0x03 → txDone s = .next { s with timer := 5000, tstate := .rx }) ∧
    (s.op = 0x00 ∨ s.op = 0x02 ∨ s.op = 0x08 → txDone s = .next { s with timer := 1000, tstate := .rx })

/-- R149, R151 and the first two lines of R152 outside a session; in a session the failure entry of R202 and R236. -/
def Obligations.ChannelErrorsEndTheTransaction : Prop :=
  ∀ s : State,
    (s.tstate = .txf ∨ s.tstate = .txd →
      (sessionActive s.sstate = false → txFail s = .next { s with tres := .eIoTx, tstate := .idle }) ∧
      (sessionActive s.sstate = true → txFail s = .next { s with
        tres := .eIoTx, tstate := .idle, failPhase := phaseOf s.sstate, failCause := .eIoTx, sstate := .failed })) ∧
    (s.tstate = .rx →
      (sessionActive s.sstate = false → rxError s = .next { s with tres := .eIoRx, tstate := .idle }) ∧
      (sessionActive s.sstate = true → rxError s = .next { s with
        tres := .eIoRx, tstate := .idle, failPhase := phaseOf s.sstate, failCause := .eIoRx, sstate := .failed }))

/-- R150: `RxByte(b)` stores the byte, counts it and reloads the timer; the byte that completes the response runs the
decoder that the sent opcode selects and ends the transaction with its result. -/
def Obligations.RxByteResult : Prop :=
  ∀ (s : State) (b : Byte) (n k : Nat), s.tstate = .rx → respLen s.op = some n → timeoutTicks s.op = some k →
    s.rcnt.toNat < n →
    (s.rcnt.toNat + 1 < n → rxByte b s = .next { s with
      rb := s.rb.setIfInBounds s.rcnt.toNat b, rcnt := s.rcnt + 1, timer := BitVec.ofNat 13 k }) ∧
    (s.rcnt.toNat + 1 = n →
      (s.op = 0x00 → rxByte b s = complete .eNone (decodeVersion { s with
        rb := s.rb.setIfInBounds s.rcnt.toNat b, rcnt := s.rcnt + 1, timer := BitVec.ofNat 13 k })) ∧
      (s.op = 0x02 ∨ s.op = 0x03 →
        rxByte b s = complete (if b = 0x01 then .eNone else .eProtocol) { s with
          rb := s.rb.setIfInBounds s.rcnt.toNat b, rcnt := s.rcnt + 1, timer := BitVec.ofNat 13 k, rspStatus := b }) ∧
      (s.op = 0x08 → rxByte b s = complete .eNone { s with
        rb := s.rb.setIfInBounds s.rcnt.toNat b, rcnt := s.rcnt + 1, timer := BitVec.ofNat 13 k,
        rspCsum := s.rb[10] ++ b }))

/-- 60_exceptions.md R241: `Tick`. The first three clauses are the rule's pseudocode. The last is the inference that the rule
itself marks [derived], for the states of the invariant: TIMER is at least 1 in a receive wait, so the subtraction does not
wrap there. -/
def Obligations.TickResult : Prop :=
  ∀ s : State,
    (s.tstate ≠ .rx → tick s = .next s) ∧
    (s.tstate = .rx → s.timer ≠ 1 → tick s = .next { s with timer := s.timer - 1 }) ∧
    (s.tstate = .rx → s.timer = 1 → tick s = complete .eTimeout { s with timer := 0 }) ∧
    (Inv s → s.tstate = .rx → 1 ≤ s.timer.toNat)

/-- R162, R241 (derived): with no byte in between, a receive wait lasts exactly the ticks its timer holds, and then the
transaction ends with E_TIMEOUT. -/
def Obligations.WaitRunsOutAfterItsTicks : Prop :=
  ∀ (s : State) (rest : List Event), s.tstate = .rx → s.timer ≠ 0 →
    (∀ k < s.timer.toNat, runSteps k { s with pending := List.replicate k .tick ++ rest } =
      .next { s with pending := rest, timer := s.timer - BitVec.ofNat 13 k }) ∧
    runSteps s.timer.toNat { s with pending := List.replicate s.timer.toNat .tick ++ rest } =
      complete .eTimeout { s with pending := rest, timer := 0 }

/-- 70_reset_and_hazards.md R268: the ticks a transaction can still wait are at most resp_len * timeout; a step that
stays in the wait never adds to them, a tick takes at least one away. -/
def Obligations.ReceiveWaitIsBounded : Prop :=
  ∀ s t : State, Inv s → s.tstate = .rx → step s = .next t → t.tstate = .rx →
    ticksLeft s ≤ (respLen s.op).getD 0 * (timeoutTicks s.op).getD 0 ∧
    ticksLeft t ≤ ticksLeft s ∧
    ((∃ rest, oldestEnabled s s.pending = some (.tick, rest)) → ticksLeft t < ticksLeft s)

/-! ## Responses -/

/-- RESP_VERSION reaching the receive wait of a GetVersion outside a session (R124, R150, R152): every field in its
register, INFO_VALID set, all 26 bytes kept in RB, the transaction ended with E_NONE (the whole response in one step: logs 6
and 22). -/
def Obligations.VersionResponseDecoded : Prop :=
  ∀ (s : State) (header : List Byte) (version maxPkt u14 devId u18 : Half) (row latch : Byte) (cfg : Word),
    header.length = 10 → s.tstate = .rx → s.op = 0x00 → s.rcnt = 0 → sessionActive s.sstate = false →
    ∃ t, exec (.respVersion header version maxPkt u14 devId u18 row latch cfg) s = .next t ∧
      t = { s with
        rb := t.rb, rcnt := 26, timer := 1000, infoVersion := version, infoMaxpkt := maxPkt, infoDevid := devId,
        infoRow := row, infoLatch := latch, infoCfg := cfg, infoValid := true, tres := .eNone, tstate := .idle } ∧
      t.rb.toList = header ++ [version.extractLsb' 8 8, version.extractLsb' 0 8, maxPkt.extractLsb' 8 8,
        maxPkt.extractLsb' 0 8, u14.extractLsb' 8 8, u14.extractLsb' 0 8, devId.extractLsb' 8 8, devId.extractLsb' 0 8,
        u18.extractLsb' 8 8, u18.extractLsb' 0 8, row, latch, cfg.extractLsb' 24 8, cfg.extractLsb' 16 8,
        cfg.extractLsb' 8 8, cfg.extractLsb' 0 8]

/-- RESP_STATUS reaching the receive wait of a FlashWrite or FlashErase outside a session (R125, R150, R152; logs 6 and 22). -/
def Obligations.StatusResponseDecoded : Prop :=
  ∀ (s : State) (header : List Byte) (status : Byte),
    header.length = 10 → s.tstate = .rx → s.op = 0x02 ∨ s.op = 0x03 → s.rcnt = 0 → sessionActive s.sstate = false →
    ∃ t, exec (.respStatus header status) s = .next t ∧
      t = { s with
        rb := t.rb, rcnt := 11, timer := if s.op = 0x03 then 5000 else 1000, rspStatus := status,
        tres := if status = 0x01 then .eNone else .eProtocol, tstate := .idle } ∧
      t.rb.toList = header ++ status :: s.rb.toList.drop 11

/-- RESP_CHECKSUM reaching the receive wait of a Checksum outside a session (R126, R150, R152); the engine is not touched
and nothing is compared (R159; logs 6 and 22). -/
def Obligations.ChecksumResponseDecoded : Prop :=
  ∀ (s : State) (header : List Byte) (csum : Half),
    header.length = 10 → s.tstate = .rx → s.op = 0x08 → s.rcnt = 0 → sessionActive s.sstate = false →
    ∃ t, exec (.respChecksum header csum) s = .next t ∧
      t = { s with rb := t.rb, rcnt := 12, timer := 1000, rspCsum := csum, tres := .eNone, tstate := .idle } ∧
      t.rb.toList = header ++ csum.extractLsb' 8 8 :: csum.extractLsb' 0 8 :: s.rb.toList.drop 12

/-- 20_memory.md R56: the bytes of a response that the block is not ready for stay in the channel, in order, and nothing
else changes (logs 6 and 22). -/
def Obligations.UnawaitedResponseStaysInChannel : Prop :=
  ∀ (s : State) (i : Instr) (fmt : RespFormat) (bs : List Byte),
    s.tstate ≠ .rx → decode (.response fmt bs) = .ok i →
    exec i s = .next { s with pending := s.pending ++ bs.map .rxByte }

/-- A response is its bytes: executing it in a fresh receive wait of its command gives what the `RxByte` events of its
bytes give, one step each (R150, R11; log 6), ahead of whatever else is pending (the model's choice, log 22). In a
session and outside one. -/
def Obligations.ResponseEqualsItsByteEvents : Prop :=
  ∀ (s : State) (i : Instr) (fmt : RespFormat) (bs : List Byte) (rest : List Event),
    s.tstate = .rx → s.rcnt = 0 → respFormat s.op = some fmt → decode (.response fmt bs) = .ok i →
    runSteps bs.length { s with pending := bs.map .rxByte ++ rest } = exec i { s with pending := rest }

/-! ## The session -/

/-- 43_session_sequencer.md R200: START is accepted in S_IDLE with no transaction in progress and refused otherwise. -/
def Obligations.StartResult : Prop :=
  decodeHostWrite 0x00 0x02 = .ok .start ∧
  ∀ s : State,
    (busy s = true ∨ s.sstate ≠ .idle → exec .start s = .next { s with herr := true }) ∧
    (busy s = false → s.sstate = .idle → exec .start s = .next { s with
      failPhase := .noPhase, failCause := .eNone, offset := 0, progress := 0, sstate := .query,
      op := 0x00, size := 0, addr := 0, wr := false, fb := #v[0x55, 0, 0, 0, 0, 0, 0, 0, 0, 0],
      idx := 0, rcnt := 0, tres := .eNone, infoValid := false, tstate := .txf })

/-- R202: in every phase a result other than E_NONE is `fail(SSTATE, res)` and nothing else happens. -/
def Obligations.FailedTransactionEndsSession : Prop :=
  ∀ (s : State) (res : Cause), sessionActive s.sstate = true → res ≠ .eNone →
    complete res s = .next { s with
      tres := res, tstate := .idle, failPhase := phaseOf s.sstate, failCause := res, sstate := .failed } ∧
    (phaseCode (phaseOf s.sstate) = sstateCode s.sstate)

/-- R203 and R204: the end of GetVersion. A bad one fails the session in phase query. After a good one, INFO_ROW = 0 or a
row count above 0xFFFF fails it in phase erase with E_PARAM and sends nothing; else the erase of floor(0x1F800 / INFO_ROW)
rows at 0x800 is issued. -/
def Obligations.QueryEnds : Prop :=
  ∀ s : State, s.sstate = .query →
    (∀ res, res ≠ .eNone → complete res s = .next { s with
      tres := res, tstate := .idle, failPhase := .query, failCause := res, sstate := .failed }) ∧
    (s.infoRow = 0 ∨ 0xFFFF < 0x1F800 / s.infoRow.toNat → complete .eNone s = .next { s with
      tres := .eNone, tstate := .idle, failPhase := .erase, failCause := .eParam, sstate := .failed }) ∧
    (s.infoRow ≠ 0 → 0x1F800 / s.infoRow.toNat ≤ 0xFFFF → complete .eNone s = .next { s with
      sstate := .erase, op := 0x03, size := BitVec.ofNat 16 (0x1F800 / s.infoRow.toNat), addr := 0x000800,
      wr := s.params.eraseWr
      fb := frameOf 0x03 (BitVec.ofNat 16 (0x1F800 / s.infoRow.toNat)) 0x000800 s.params.eraseWr
      idx := 0, rcnt := 0, tres := .eNone, tstate := .txf })

/-- R205: the good end of FlashErase writes the sentinel and issues the first page; a bad one fails the session with IMG
not modified. -/
def Obligations.EraseEnds : Prop :=
  ∀ s : State, s.sstate = .erase →
    complete .eNone s = .next { s with
      img := cellWrite s.img 0x1FFFF 0x55, offset := 0x000800, progress := 0, sstate := .write,
      op := 0x02, size := 0x0080, addr := 0x000800, wr := true, fb := frameOf 0x02 0x0080 0x000800 true,
      idx := 0, rcnt := 0, tres := .eNone, tstate := .txf } ∧
    (∀ res, res ≠ .eNone → complete res s = .next { s with
      tres := res, tstate := .idle, failPhase := .erase, failCause := res, sstate := .failed })

/-- R207: the good end of the page at OFFSET advances OFFSET and PROGRESS and issues the next page, or after the last page
the first verify window (R208); a bad one leaves OFFSET at the failed page. -/
def Obligations.PageEnds : Prop :=
  ∀ s : State, s.sstate = .write → s.op = 0x02 → s.size = 0x0080 → 0x800 ≤ s.offset.toNat → s.offset.toNat < 0x20000 →
    (s.offset.toNat + 0x80 < 0x20000 → complete .eNone s = .next { s with
      offset := s.offset + 0x80, progress := BitVec.ofNat 7 (100 * (s.offset.toNat + 0x80 - 0x800) / 0x1F800),
      addr := s.offset + 0x80, wr := true, fb := frameOf 0x02 0x0080 (s.offset + 0x80) true,
      idx := 0, rcnt := 0, tres := .eNone, tstate := .txf }) ∧
    (0x20000 ≤ s.offset.toNat + 0x80 → complete .eNone s = .next { s with
      offset := 0x000800, progress := BitVec.ofNat 7 (100 * (s.offset.toNat + 0x80 - 0x800) / 0x1F800),
      sstate := .verify, op := 0x08, size := 0xFFF0, addr := 0x000800, wr := false,
      fb := frameOf 0x08 0xFFF0 0x000800 false, idx := 0, rcnt := 0, tres := .eNone, tstate := .txf }) ∧
    (∀ res, res ≠ .eNone → complete res s = .next { s with
      tres := res, tstate := .idle, failPhase := .write, failCause := res, sstate := .failed })

/-- R209: the end of the Checksum for the window at OFFSET. A bad one fails the session with OFFSET at the window. The local value is `checksum` of the image bytes of the
window; a difference fails the session with E_CSUM and OFFSET at the window, equality issues the next window or the
device's reset (R210). -/
def Obligations.WindowEnds : Prop :=
  ∀ s : State, s.sstate = .verify → s.offset.toNat + s.size.toNat ≤ 0x1FFFE →
    (∀ res, res ≠ .eNone → complete res s = .next { s with
      tres := res, tstate := .idle, failPhase := .verify, failCause := res, sstate := .failed }) ∧
    ∃ t, complete .eNone s = .next t ∧
      csValue t = checksum (imageBytes s.img s.offset.toNat s.size.toNat) ∧
      t.csPh = s.size.getLsbD 0 ∧
      (csValue t ≠ s.rspCsum → t = { s with
        csA := t.csA, csB := t.csB, csH := t.csH, csPh := t.csPh, tres := .eNone, tstate := .idle,
        failPhase := .verify, failCause := .eCsum, sstate := .failed }) ∧
      (csValue t = s.rspCsum → s.offset.toNat + s.size.toNat < 0x1FFFE → t = { s with
        csA := t.csA, csB := t.csB, csH := t.csH, csPh := t.csPh, offset := s.offset + s.size.setWidth 24,
        op := 0x08, size := BitVec.ofNat 16 (min 0xFFF0 (0x1FFFE - (s.offset.toNat + s.size.toNat))),
        addr := s.offset + s.size.setWidth 24, wr := false,
        fb := frameOf 0x08 (BitVec.ofNat 16 (min 0xFFF0 (0x1FFFE - (s.offset.toNat + s.size.toNat))))
          (s.offset + s.size.setWidth 24) false
        idx := 0, rcnt := 0, tres := .eNone, tstate := .txf }) ∧
      (csValue t = s.rspCsum → s.offset.toNat + s.size.toNat = 0x1FFFE → t = { s with
        csA := t.csA, csB := t.csB, csH := t.csH, csPh := t.csPh, offset := 0x01FFFE, sstate := .reset,
        op := 0x09, size := 0, addr := 0, wr := false, fb := frameOf 0x09 0 0 false,
        idx := 0, rcnt := 0, tres := .eNone, tstate := .txf })

/-- R211: the end of the Reset transaction. -/
def Obligations.ResetPhaseEnds : Prop :=
  ∀ s : State, s.sstate = .reset →
    complete .eNone s = .next { s with tres := .eNone, tstate := .idle, sstate := .done } ∧
    (∀ res, res ≠ .eNone → complete res s = .next { s with
      tres := res, tstate := .idle, failPhase := .reset, failCause := res, sstate := .failed })

/-- R213 (derived), with R201, R212 and R269: in a step that is no reset SSTATE stays, goes to the next phase, or fails out
of a running phase, so no phase is skipped and none is entered again; every other step is a reset. -/
def Obligations.SessionOnlyMovesForward : Prop :=
  ∀ s t : State, step s = .next t →
    sessionMove s.sstate t.sstate = true ∨ t = resetBlock { s with pending := t.pending }

/-- R212: S_DONE and S_FAILED are left only by reset, and until then the recorded failure, OFFSET and PROGRESS stay. -/
def Obligations.TerminalStatesStay : Prop :=
  ∀ s t : State, (s.sstate = .done ∨ s.sstate = .failed) → step s = .next t →
    (t.sstate = s.sstate ∧ t.failPhase = s.failPhase ∧ t.failCause = s.failCause ∧ t.offset = s.offset ∧
      t.progress = s.progress) ∨
    t = resetBlock { s with pending := t.pending }

/-- 60_exceptions.md R236: the step in which a session fails leaves OFFSET, PROGRESS and IMG alone, stops the engine, and
records a pair that R233 allows, with the phase the session was in (E_PARAM is recorded in phase erase, R204). -/
def Obligations.FailureEntryKeepsOffset : Prop :=
  ∀ s t : State, Inv s → step s = .next t → s.sstate ≠ .failed → t.sstate = .failed →
    sessionActive s.sstate = true ∧ t.offset = s.offset ∧ t.progress = s.progress ∧ t.img = s.img ∧
    t.tstate = .idle ∧ failurePair t.failPhase t.failCause = true ∧
    (t.failPhase = phaseOf s.sstate ∨ (s.sstate = .query ∧ t.failPhase = .erase ∧ t.failCause = .eParam))

/-- A whole page of a session (R207, R155, source example S4): from the start of a page, the channel takes the frame and
the 128 image bytes, the device answers ten bytes and a status; success moves OFFSET on, any other status fails the
session in phase write with E_PROTOCOL and OFFSET at this page. -/
def Obligations.OnePageOfASession : Prop :=
  ∀ (s : State) (header : List Byte) (status : Byte) (rest : List Event),
    Inv s → s.sstate = .write → s.tstate = .txf → s.idx = 0 → s.wr = true → s.fb = frameOf 0x02 0x0080 s.offset true →
    header.length = 10 →
    ∃ t, runSteps 149 (setPending
        (List.replicate 138 .txAccept ++ (header ++ [status]).map .rxByte ++ rest) s) = .next t ∧
      t.sent = s.sent ++ (frameOf 0x02 0x0080 s.offset true).toList ++ imageBytes s.img s.offset.toNat 0x80 ∧
      t.pending = rest ∧ t.rspStatus = status ∧ t.img = s.img ∧
      (status = 0x01 → s.offset.toNat + 0x80 < 0x20000 →
        t.sstate = .write ∧ t.offset = s.offset + 0x80 ∧ t.tstate = .txf ∧ t.idx = 0) ∧
      (status = 0x01 → s.offset.toNat + 0x80 = 0x20000 →
        t.sstate = .verify ∧ t.offset = 0x000800 ∧ t.progress = 100 ∧ t.tstate = .txf ∧ t.idx = 0) ∧
      (status ≠ 0x01 → t.sstate = .failed ∧ t.failPhase = .write ∧ t.failCause = .eProtocol ∧ t.offset = s.offset)

/-- A session can succeed (R215, source example S3): for every image and every version answer whose erase row size is 2 or
more there is a sequence of 139154 accepted and 11149 received bytes with which START leads to S_DONE, the registers left as
R217 says after S_DONE, and the D_ registers and HERR not touched. -/
def Obligations.SessionReachesDone : Prop :=
  ∀ (s : State) (answer : RespBuf), Inv s → busy s = false → s.sstate = .idle → 2 ≤ (answer[20]).toNat →
    ∃ (es : List Event) (t : State),
      es.countP (· = .txAccept) = 139154 ∧ (receivedBytes es).length = 11149 ∧ es.length = 139154 + 11149 ∧
      (receivedBytes es).take 26 = answer.toList ∧
      runSteps (1 + es.length) { s with pending := .hostWrite 0x00 0x02 :: es } = .next t ∧
      t.pending = [] ∧ t.sstate = .done ∧ t.tstate = .idle ∧ t.tres = .eNone ∧ t.failPhase = .noPhase ∧
      t.failCause = .eNone ∧ t.op = 0x09 ∧ t.size = 0 ∧ t.addr = 0 ∧ t.wr = false ∧ t.offset = 0x01FFFE ∧
      t.progress = 100 ∧ t.rspStatus = 0x01 ∧ csEq t = true ∧ csValue t = checksum (imageBytes t.img 0x107F0 0xF80E) ∧
      t.herr = s.herr ∧ t.dOp = s.dOp ∧ t.dSize = s.dSize ∧ t.dAddr = s.dAddr ∧ t.dWr = s.dWr ∧ t.dOk = s.dOk ∧
      t.dKnown = s.dKnown ∧
      cellRead t.img 0x1FFFF = 0x55 ∧ (∀ a, a ≠ 0x1FFFF → cellRead t.img a = cellRead s.img a) ∧
      t.sent.length = s.sent.length + 139154

/-! ## Steps -/

/-- When the oldest enabled event is a host write that decodes to a request, the step is `exec` of it with the event
taken from the list (30_encoding.md R82, 00_scope.md R11; log 1). -/
def Obligations.StepRunsTheDecodedRequest : Prop :=
  ∀ (s : State) (before after : List Event) (i : Index) (v : Word) (instr : Instr),
    (∀ e ∈ before, enabled e s = false) → decode (.hostWrite i v) = .ok instr →
    step { s with pending := before ++ .hostWrite i v :: after } = exec instr { s with pending := before ++ after }

/-- When it is any other event, the step is the event's rule (R11); when none is enabled, the step changes nothing. -/
def Obligations.StepPerformsTheOldestEnabledEvent : Prop :=
  ∀ (s : State) (before after : List Event),
    (∀ e ∈ before, enabled e s = false) →
    (∀ e, enabled e s = true → (∀ i v, e = .hostWrite i v → ∀ instr, decode (.hostWrite i v) ≠ .ok instr) →
      step { s with pending := before ++ e :: after } = perform e { s with pending := before ++ after }) ∧
    step { s with pending := before } = .next { s with pending := before }

/-- A table word placed by `withFetchWord` runs as the next step: a request as it is, a command when the block is not
busy, a response in the receive wait of its command (logs 2 and 3). -/
def Obligations.FetchedTableWordRuns : Prop :=
  ∀ (s : State) (nbits w : Nat) (i : Instr), decodeTableWord nbits w = some i →
    (nbits ≤ 32 → step (s.withFetchWord nbits w) = exec i s) ∧
    (32 < nbits → nbits ≤ 80 → busy s = false → step (s.withFetchWord nbits w) = exec i s) ∧
    (80 < nbits → ∃ u : State, u = { s with
        tstate := .rx, op := u.op, rb := u.rb, rcnt := u.rcnt, timer := 1000 } ∧
      (respLen u.op).getD 0 = u.rcnt.toNat + 1 ∧ step (s.withFetchWord nbits w) = exec i u)

/-- The reset state meets the invariant. -/
def Obligations.ResetStateMeetsInv : Prop := Inv State.reset

/-- Every step keeps the invariant: IMG's canonical form, the bounds of the transaction engine, and the place of the
session (R145 to R152, R200 to R217, R231, R233, R236, R241). -/
def Obligations.EveryStepKeepsInv : Prop :=
  ∀ s t : State, Inv s → step s = .next t → Inv t

/-- From a state that meets the invariant the machine never stops: the engine never asks for a value the spec leaves
undefined (R143, R144) and never reads outside IMG, FB or RB (R21, R26, R51). From no state does it refuse: it performs
enabled events only (R11). -/
def Obligations.NoStopFromInv : Prop :=
  (∀ s : State, Inv s → ∃ t, step s = .next t) ∧ (∀ (s : State) (r : Refusal), step s ≠ .refused r)

/-- 20_memory.md R52: the only write to IMG is 0x55 at 0x1FFFF, in the step from the erase to the write phase. -/
def Obligations.ImageWrittenOnlyWithSentinel : Prop :=
  ∀ s t : State, step s = .next t →
    t.img = s.img ∨ (s.sstate = .erase ∧ t.sstate = .write ∧
      (Memory.wf s.img = true → cellRead t.img 0x1FFFF = 0x55) ∧
      ∀ a, a ≠ 0x1FFFF → cellRead t.img a = cellRead s.img a)

/-- R55: the output grows only by the byte the block offers, in the step of a `TxAccept`. -/
def Obligations.OutputIsTheAcceptedBytes : Prop :=
  ∀ s t : State, step s = .next t →
    t.sent = s.sent ∨
    (∃ b rest, oldestEnabled s s.pending = some (.txAccept, rest) ∧ txByte s = some b ∧ t.sent = s.sent ++ [b])

/-- R79 and R162: from CMD on, a channel that takes every byte gets the frame and, for FlashWrite, the SIZE image bytes from
ADDR upward; then the wait of its command begins, or for Reset the transaction has ended with E_NONE. -/
def Obligations.CommandOnTheWire : Prop :=
  ∀ (s : State) (rest : List Event) (payload : List Byte), busy s = false → supported s.op = true →
    (s.op = 0x02 → s.addr.toNat + s.size.toNat ≤ 0x100000) →
    payload = (if s.op = 0x02 then imageBytes s.img s.addr.toNat s.size.toNat else []) →
    ∃ t, runSteps (11 + payload.length) (setPending
        (.hostWrite 0x00 0x04 :: (List.replicate (10 + payload.length) .txAccept ++ rest)) s) = .next t ∧
      t.sent = s.sent ++ (frameOf s.op s.size s.addr (wrOf s.params.eraseWr s.op)).toList ++ payload ∧
      t.pending = rest ∧ t.img = s.img ∧ t.herr = s.herr ∧ t.sstate = s.sstate ∧ t.tres = .eNone ∧
      (s.op = 0x09 → t.tstate = .idle ∧ t.timer = s.timer) ∧
      (s.op ≠ 0x09 → t.tstate = .rx ∧ t.rcnt = 0 ∧ (timeoutTicks s.op) = some t.timer.toNat)

/-! ## The host port -/

/-- 10_state.md R36: what a read of each index returns, with the fields of STATUS as R38 numbers them. -/
def Obligations.RegisterMapReads : Prop :=
  ∀ s : State,
    readReg 0x00 s = some 0 ∧ readReg 0x02 s = some (s.op.setWidth 32) ∧ readReg 0x03 s = some (s.size.setWidth 32) ∧
    readReg 0x04 s = some (s.addr.setWidth 32) ∧ readReg 0x05 s = some (if s.wr then 1 else 0) ∧
    readReg 0x06 s = some (0#16 ++ s.csA ++ s.csB) ∧ readReg 0x07 s = some 0 ∧
    readReg 0x08 s = some (0#24 ++ causeCode s.failCause ++ 0#1 ++ phaseCode s.failPhase) ∧
    readReg 0x09 s = some (s.offset.setWidth 32) ∧ readReg 0x0A s = some (s.progress.setWidth 32) ∧
    readReg 0x0B s = some (s.rspStatus.setWidth 32) ∧ readReg 0x0C s = some (s.rspCsum.setWidth 32) ∧
    readReg 0x0D s = some (s.infoMaxpkt ++ s.infoVersion) ∧
    readReg 0x0E s = some (s.infoLatch ++ s.infoRow ++ s.infoDevid) ∧ readReg 0x0F s = some s.infoCfg ∧
    (∀ k : Fin 10, readReg (BitVec.ofNat 6 (0x10 + k)) s = some (s.fb[k].setWidth 32)) ∧
    readReg 0x1A s = some (0#21 ++ BitVec.ofBool s.dKnown ++ BitVec.ofBool s.dOk ++ BitVec.ofBool s.dWr ++ s.dOp) ∧
    readReg 0x1B s = some (s.dSize.setWidth 32) ∧ readReg 0x1C s = some (s.dAddr.setWidth 32) ∧
    readReg 0x1D s = some (s.rcnt.setWidth 32) ∧ readReg 0x1E s = some (s.timer.setWidth 32) ∧
    readReg 0x1F s = some (s.idx.setWidth 32) ∧
    (∀ k : Fin 26, readReg (BitVec.ofNat 6 (0x20 + k)) s = some (s.rb[k].setWidth 32)) ∧
    (∀ i : Index, 0x3A ≤ i.toNat → readReg i s = none) ∧
    ∃ w : Word, readReg 0x01 s = some w ∧
      w.extractLsb' 0 3 = sstateCode s.sstate ∧ w.extractLsb' 3 2 = tstateCode s.tstate ∧
      w.getLsbD 5 = (decide (tstateCode s.tstate ≠ 0) ||
        decide (1 ≤ (sstateCode s.sstate).toNat ∧ (sstateCode s.sstate).toNat ≤ 5)) ∧
      w.getLsbD 6 = decide (sstateCode s.sstate = 6) ∧ w.getLsbD 7 = decide (sstateCode s.sstate = 7) ∧
      w.getLsbD 8 = s.herr ∧ w.getLsbD 9 = s.csPh ∧ w.getLsbD 10 = s.infoValid ∧ w.getLsbD 11 = s.dOk ∧
      w.getLsbD 12 = s.dKnown ∧ w.getLsbD 13 = decide (s.rspCsum = s.csA ++ s.csB) ∧ w.extractLsb' 14 2 = 0 ∧
      w.extractLsb' 16 4 = causeCode s.tres ∧ w.extractLsb' 20 12 = 0

/-- R40, R41, R46: a read returns the register's value and changes no state of the block; an unmapped index returns 0 and
sets HERR. Allowed in every state, busy or not. -/
def Obligations.HostReadResult : Prop :=
  ∀ (s : State) (i : Index), enabled (.hostRead i) s = true ∧
    (i = 0x00 ∨ i = 0x07 → readReg i s = some 0) ∧
    (∀ v, readReg i s = some v → perform (.hostRead i) s = .next { s with hostData := v }) ∧
    (0x3A ≤ i.toNat → perform (.hostRead i) s = .next { s with hostData := 0, herr := true })

/-- R43: a write to an RW register while not busy stores the low bits and changes nothing else. -/
def Obligations.OperandWrites : Prop :=
  ∀ (s : State) (v : Word), busy s = false →
    perform (.hostWrite 0x02 v) s = .next { s with op := v.extractLsb' 0 8 } ∧
    perform (.hostWrite 0x03 v) s = .next { s with size := v.extractLsb' 0 16 } ∧
    perform (.hostWrite 0x04 v) s = .next { s with addr := v.extractLsb' 0 24 } ∧
    perform (.hostWrite 0x05 v) s = .next { s with wr := v.getLsbD 0 } ∧
    (∀ k : Fin 10, perform (.hostWrite (BitVec.ofNat 6 (0x10 + k)) v) s =
      .next { s with fb := s.fb.setIfInBounds k (v.extractLsb' 0 8) })

/-- R34, R42, R46: a write to a read-only or unmapped index sets HERR and changes nothing else, in every state; HERR, once
set, is cleared only by reset. -/
def Obligations.RefusalsSetStickyHerr : Prop :=
  (∀ (s : State) (i : Index) (v : Word),
    i = 0x01 ∨ i = 0x06 ∨ (0x08 ≤ i.toNat ∧ i.toNat ≤ 0x0F) ∨ 0x1A ≤ i.toNat →
    perform (.hostWrite i v) s = .next { s with herr := true }) ∧
  (∀ s t : State, step s = .next t → s.herr = true →
    t.herr = true ∨ t = resetBlock { s with pending := t.pending })

/-- 60_exceptions.md R235: the events of one clock period are all taken, most urgent first; a byte comes before the tick
that would end the wait. -/
def Obligations.PeriodOrder : Prop :=
  (∀ es : List Event, (orderPeriod es).Perm es ∧ (orderPeriod es).Pairwise (fun a b => urgency a ≤ urgency b)) ∧
  (∀ (b : Byte) (i : Index) (v w : Word), v.getLsbD 0 = true → ¬(i = 0x00 ∧ w.getLsbD 0 = true) →
    orderPeriod [.hostWrite i w, .hostRead i, .txAccept, .txFail, .tick, .rxByte b, .rxError, .hostWrite 0x00 v, .reset] =
      [.reset, .hostWrite 0x00 v, .rxError, .rxByte b, .tick, .txFail, .txAccept, .hostWrite i w, .hostRead i])
end

