-- ==== Sys2Proof/Laws/State.lean ====
section
/-! SUPPORT. The small lemmas of the state: one per field and update, true by rfl, so that no proof unfolds a record
update. `(rfl)` keeps simp, not dsimp, in charge of them: a condition of an if is then rewritten with its Decidable. -/

namespace Sys2Proof.Machine

/-! ## refuse -/

@[simp] theorem refuse_csA (s : State) : (refuse s).csA = s.csA := (rfl)
@[simp] theorem refuse_csB (s : State) : (refuse s).csB = s.csB := (rfl)
@[simp] theorem refuse_csH (s : State) : (refuse s).csH = s.csH := (rfl)
@[simp] theorem refuse_csPh (s : State) : (refuse s).csPh = s.csPh := (rfl)
@[simp] theorem refuse_op (s : State) : (refuse s).op = s.op := (rfl)
@[simp] theorem refuse_size (s : State) : (refuse s).size = s.size := (rfl)
@[simp] theorem refuse_addr (s : State) : (refuse s).addr = s.addr := (rfl)
@[simp] theorem refuse_wr (s : State) : (refuse s).wr = s.wr := (rfl)
@[simp] theorem refuse_fb (s : State) : (refuse s).fb = s.fb := (rfl)
@[simp] theorem refuse_rb (s : State) : (refuse s).rb = s.rb := (rfl)
@[simp] theorem refuse_rcnt (s : State) : (refuse s).rcnt = s.rcnt := (rfl)
@[simp] theorem refuse_dOp (s : State) : (refuse s).dOp = s.dOp := (rfl)
@[simp] theorem refuse_dSize (s : State) : (refuse s).dSize = s.dSize := (rfl)
@[simp] theorem refuse_dAddr (s : State) : (refuse s).dAddr = s.dAddr := (rfl)
@[simp] theorem refuse_dWr (s : State) : (refuse s).dWr = s.dWr := (rfl)
@[simp] theorem refuse_dOk (s : State) : (refuse s).dOk = s.dOk := (rfl)
@[simp] theorem refuse_dKnown (s : State) : (refuse s).dKnown = s.dKnown := (rfl)
@[simp] theorem refuse_rspStatus (s : State) : (refuse s).rspStatus = s.rspStatus := (rfl)
@[simp] theorem refuse_rspCsum (s : State) : (refuse s).rspCsum = s.rspCsum := (rfl)
@[simp] theorem refuse_infoVersion (s : State) : (refuse s).infoVersion = s.infoVersion := (rfl)
@[simp] theorem refuse_infoMaxpkt (s : State) : (refuse s).infoMaxpkt = s.infoMaxpkt := (rfl)
@[simp] theorem refuse_infoDevid (s : State) : (refuse s).infoDevid = s.infoDevid := (rfl)
@[simp] theorem refuse_infoRow (s : State) : (refuse s).infoRow = s.infoRow := (rfl)
@[simp] theorem refuse_infoLatch (s : State) : (refuse s).infoLatch = s.infoLatch := (rfl)
@[simp] theorem refuse_infoCfg (s : State) : (refuse s).infoCfg = s.infoCfg := (rfl)
@[simp] theorem refuse_infoValid (s : State) : (refuse s).infoValid = s.infoValid := (rfl)
@[simp] theorem refuse_tstate (s : State) : (refuse s).tstate = s.tstate := (rfl)
@[simp] theorem refuse_idx (s : State) : (refuse s).idx = s.idx := (rfl)
@[simp] theorem refuse_timer (s : State) : (refuse s).timer = s.timer := (rfl)
@[simp] theorem refuse_tres (s : State) : (refuse s).tres = s.tres := (rfl)
@[simp] theorem refuse_sstate (s : State) : (refuse s).sstate = s.sstate := (rfl)
@[simp] theorem refuse_failPhase (s : State) : (refuse s).failPhase = s.failPhase := (rfl)
@[simp] theorem refuse_failCause (s : State) : (refuse s).failCause = s.failCause := (rfl)
@[simp] theorem refuse_offset (s : State) : (refuse s).offset = s.offset := (rfl)
@[simp] theorem refuse_progress (s : State) : (refuse s).progress = s.progress := (rfl)
@[simp] theorem refuse_herr (s : State) : (refuse s).herr = true := (rfl)
@[simp] theorem refuse_img (s : State) : (refuse s).img = s.img := (rfl)
@[simp] theorem refuse_pending (s : State) : (refuse s).pending = s.pending := (rfl)
@[simp] theorem refuse_sent (s : State) : (refuse s).sent = s.sent := (rfl)
@[simp] theorem refuse_hostData (s : State) : (refuse s).hostData = s.hostData := (rfl)
@[simp] theorem refuse_params (s : State) : (refuse s).params = s.params := (rfl)

/-! ## fail -/

@[simp] theorem fail_csA (p : Phase) (c : Cause) (s : State) : (fail p c s).csA = s.csA := (rfl)
@[simp] theorem fail_csB (p : Phase) (c : Cause) (s : State) : (fail p c s).csB = s.csB := (rfl)
@[simp] theorem fail_csH (p : Phase) (c : Cause) (s : State) : (fail p c s).csH = s.csH := (rfl)
@[simp] theorem fail_csPh (p : Phase) (c : Cause) (s : State) : (fail p c s).csPh = s.csPh := (rfl)
@[simp] theorem fail_op (p : Phase) (c : Cause) (s : State) : (fail p c s).op = s.op := (rfl)
@[simp] theorem fail_size (p : Phase) (c : Cause) (s : State) : (fail p c s).size = s.size := (rfl)
@[simp] theorem fail_addr (p : Phase) (c : Cause) (s : State) : (fail p c s).addr = s.addr := (rfl)
@[simp] theorem fail_wr (p : Phase) (c : Cause) (s : State) : (fail p c s).wr = s.wr := (rfl)
@[simp] theorem fail_fb (p : Phase) (c : Cause) (s : State) : (fail p c s).fb = s.fb := (rfl)
@[simp] theorem fail_rb (p : Phase) (c : Cause) (s : State) : (fail p c s).rb = s.rb := (rfl)
@[simp] theorem fail_rcnt (p : Phase) (c : Cause) (s : State) : (fail p c s).rcnt = s.rcnt := (rfl)
@[simp] theorem fail_dOp (p : Phase) (c : Cause) (s : State) : (fail p c s).dOp = s.dOp := (rfl)
@[simp] theorem fail_dSize (p : Phase) (c : Cause) (s : State) : (fail p c s).dSize = s.dSize := (rfl)
@[simp] theorem fail_dAddr (p : Phase) (c : Cause) (s : State) : (fail p c s).dAddr = s.dAddr := (rfl)
@[simp] theorem fail_dWr (p : Phase) (c : Cause) (s : State) : (fail p c s).dWr = s.dWr := (rfl)
@[simp] theorem fail_dOk (p : Phase) (c : Cause) (s : State) : (fail p c s).dOk = s.dOk := (rfl)
@[simp] theorem fail_dKnown (p : Phase) (c : Cause) (s : State) : (fail p c s).dKnown = s.dKnown := (rfl)
@[simp] theorem fail_rspStatus (p : Phase) (c : Cause) (s : State) : (fail p c s).rspStatus = s.rspStatus := (rfl)
@[simp] theorem fail_rspCsum (p : Phase) (c : Cause) (s : State) : (fail p c s).rspCsum = s.rspCsum := (rfl)
@[simp] theorem fail_infoVersion (p : Phase) (c : Cause) (s : State) : (fail p c s).infoVersion = s.infoVersion := (rfl)
@[simp] theorem fail_infoMaxpkt (p : Phase) (c : Cause) (s : State) : (fail p c s).infoMaxpkt = s.infoMaxpkt := (rfl)
@[simp] theorem fail_infoDevid (p : Phase) (c : Cause) (s : State) : (fail p c s).infoDevid = s.infoDevid := (rfl)
@[simp] theorem fail_infoRow (p : Phase) (c : Cause) (s : State) : (fail p c s).infoRow = s.infoRow := (rfl)
@[simp] theorem fail_infoLatch (p : Phase) (c : Cause) (s : State) : (fail p c s).infoLatch = s.infoLatch := (rfl)
@[simp] theorem fail_infoCfg (p : Phase) (c : Cause) (s : State) : (fail p c s).infoCfg = s.infoCfg := (rfl)
@[simp] theorem fail_infoValid (p : Phase) (c : Cause) (s : State) : (fail p c s).infoValid = s.infoValid := (rfl)
@[simp] theorem fail_tstate (p : Phase) (c : Cause) (s : State) : (fail p c s).tstate = s.tstate := (rfl)
@[simp] theorem fail_idx (p : Phase) (c : Cause) (s : State) : (fail p c s).idx = s.idx := (rfl)
@[simp] theorem fail_timer (p : Phase) (c : Cause) (s : State) : (fail p c s).timer = s.timer := (rfl)
@[simp] theorem fail_tres (p : Phase) (c : Cause) (s : State) : (fail p c s).tres = s.tres := (rfl)
@[simp] theorem fail_sstate (p : Phase) (c : Cause) (s : State) : (fail p c s).sstate = .failed := (rfl)
@[simp] theorem fail_failPhase (p : Phase) (c : Cause) (s : State) : (fail p c s).failPhase = p := (rfl)
@[simp] theorem fail_failCause (p : Phase) (c : Cause) (s : State) : (fail p c s).failCause = c := (rfl)
@[simp] theorem fail_offset (p : Phase) (c : Cause) (s : State) : (fail p c s).offset = s.offset := (rfl)
@[simp] theorem fail_progress (p : Phase) (c : Cause) (s : State) : (fail p c s).progress = s.progress := (rfl)
@[simp] theorem fail_herr (p : Phase) (c : Cause) (s : State) : (fail p c s).herr = s.herr := (rfl)
@[simp] theorem fail_img (p : Phase) (c : Cause) (s : State) : (fail p c s).img = s.img := (rfl)
@[simp] theorem fail_pending (p : Phase) (c : Cause) (s : State) : (fail p c s).pending = s.pending := (rfl)
@[simp] theorem fail_sent (p : Phase) (c : Cause) (s : State) : (fail p c s).sent = s.sent := (rfl)
@[simp] theorem fail_hostData (p : Phase) (c : Cause) (s : State) : (fail p c s).hostData = s.hostData := (rfl)
@[simp] theorem fail_params (p : Phase) (c : Cause) (s : State) : (fail p c s).params = s.params := (rfl)

/-! ## loadOperands -/

@[simp] theorem loadOperands_csA (o : Byte) (n : Half) (a : Addr) (s : State) : (loadOperands o n a s).csA = s.csA := (rfl)
@[simp] theorem loadOperands_csB (o : Byte) (n : Half) (a : Addr) (s : State) : (loadOperands o n a s).csB = s.csB := (rfl)
@[simp] theorem loadOperands_csH (o : Byte) (n : Half) (a : Addr) (s : State) : (loadOperands o n a s).csH = s.csH := (rfl)
@[simp] theorem loadOperands_csPh (o : Byte) (n : Half) (a : Addr) (s : State) : (loadOperands o n a s).csPh = s.csPh := (rfl)
@[simp] theorem loadOperands_op (o : Byte) (n : Half) (a : Addr) (s : State) : (loadOperands o n a s).op = o := (rfl)
@[simp] theorem loadOperands_size (o : Byte) (n : Half) (a : Addr) (s : State) : (loadOperands o n a s).size = n := (rfl)
@[simp] theorem loadOperands_addr (o : Byte) (n : Half) (a : Addr) (s : State) : (loadOperands o n a s).addr = a := (rfl)
@[simp] theorem loadOperands_wr (o : Byte) (n : Half) (a : Addr) (s : State) : (loadOperands o n a s).wr = s.wr := (rfl)
@[simp] theorem loadOperands_fb (o : Byte) (n : Half) (a : Addr) (s : State) : (loadOperands o n a s).fb = s.fb := (rfl)
@[simp] theorem loadOperands_rb (o : Byte) (n : Half) (a : Addr) (s : State) : (loadOperands o n a s).rb = s.rb := (rfl)
@[simp] theorem loadOperands_rcnt (o : Byte) (n : Half) (a : Addr) (s : State) : (loadOperands o n a s).rcnt = s.rcnt := (rfl)
@[simp] theorem loadOperands_dOp (o : Byte) (n : Half) (a : Addr) (s : State) : (loadOperands o n a s).dOp = s.dOp := (rfl)
@[simp] theorem loadOperands_dSize (o : Byte) (n : Half) (a : Addr) (s : State) : (loadOperands o n a s).dSize = s.dSize := (rfl)
@[simp] theorem loadOperands_dAddr (o : Byte) (n : Half) (a : Addr) (s : State) : (loadOperands o n a s).dAddr = s.dAddr := (rfl)
@[simp] theorem loadOperands_dWr (o : Byte) (n : Half) (a : Addr) (s : State) : (loadOperands o n a s).dWr = s.dWr := (rfl)
@[simp] theorem loadOperands_dOk (o : Byte) (n : Half) (a : Addr) (s : State) : (loadOperands o n a s).dOk = s.dOk := (rfl)
@[simp] theorem loadOperands_dKnown (o : Byte) (n : Half) (a : Addr) (s : State) : (loadOperands o n a s).dKnown = s.dKnown := (rfl)
@[simp] theorem loadOperands_rspStatus (o : Byte) (n : Half) (a : Addr) (s : State) : (loadOperands o n a s).rspStatus = s.rspStatus := (rfl)
@[simp] theorem loadOperands_rspCsum (o : Byte) (n : Half) (a : Addr) (s : State) : (loadOperands o n a s).rspCsum = s.rspCsum := (rfl)
@[simp] theorem loadOperands_infoVersion (o : Byte) (n : Half) (a : Addr) (s : State) : (loadOperands o n a s).infoVersion = s.infoVersion := (rfl)
@[simp] theorem loadOperands_infoMaxpkt (o : Byte) (n : Half) (a : Addr) (s : State) : (loadOperands o n a s).infoMaxpkt = s.infoMaxpkt := (rfl)
@[simp] theorem loadOperands_infoDevid (o : Byte) (n : Half) (a : Addr) (s : State) : (loadOperands o n a s).infoDevid = s.infoDevid := (rfl)
@[simp] theorem loadOperands_infoRow (o : Byte) (n : Half) (a : Addr) (s : State) : (loadOperands o n a s).infoRow = s.infoRow := (rfl)
@[simp] theorem loadOperands_infoLatch (o : Byte) (n : Half) (a : Addr) (s : State) : (loadOperands o n a s).infoLatch = s.infoLatch := (rfl)
@[simp] theorem loadOperands_infoCfg (o : Byte) (n : Half) (a : Addr) (s : State) : (loadOperands o n a s).infoCfg = s.infoCfg := (rfl)
@[simp] theorem loadOperands_infoValid (o : Byte) (n : Half) (a : Addr) (s : State) : (loadOperands o n a s).infoValid = s.infoValid := (rfl)
@[simp] theorem loadOperands_tstate (o : Byte) (n : Half) (a : Addr) (s : State) : (loadOperands o n a s).tstate = s.tstate := (rfl)
@[simp] theorem loadOperands_idx (o : Byte) (n : Half) (a : Addr) (s : State) : (loadOperands o n a s).idx = s.idx := (rfl)
@[simp] theorem loadOperands_timer (o : Byte) (n : Half) (a : Addr) (s : State) : (loadOperands o n a s).timer = s.timer := (rfl)
@[simp] theorem loadOperands_tres (o : Byte) (n : Half) (a : Addr) (s : State) : (loadOperands o n a s).tres = s.tres := (rfl)
@[simp] theorem loadOperands_sstate (o : Byte) (n : Half) (a : Addr) (s : State) : (loadOperands o n a s).sstate = s.sstate := (rfl)
@[simp] theorem loadOperands_failPhase (o : Byte) (n : Half) (a : Addr) (s : State) : (loadOperands o n a s).failPhase = s.failPhase := (rfl)
@[simp] theorem loadOperands_failCause (o : Byte) (n : Half) (a : Addr) (s : State) : (loadOperands o n a s).failCause = s.failCause := (rfl)
@[simp] theorem loadOperands_offset (o : Byte) (n : Half) (a : Addr) (s : State) : (loadOperands o n a s).offset = s.offset := (rfl)
@[simp] theorem loadOperands_progress (o : Byte) (n : Half) (a : Addr) (s : State) : (loadOperands o n a s).progress = s.progress := (rfl)
@[simp] theorem loadOperands_herr (o : Byte) (n : Half) (a : Addr) (s : State) : (loadOperands o n a s).herr = s.herr := (rfl)
@[simp] theorem loadOperands_img (o : Byte) (n : Half) (a : Addr) (s : State) : (loadOperands o n a s).img = s.img := (rfl)
@[simp] theorem loadOperands_pending (o : Byte) (n : Half) (a : Addr) (s : State) : (loadOperands o n a s).pending = s.pending := (rfl)
@[simp] theorem loadOperands_sent (o : Byte) (n : Half) (a : Addr) (s : State) : (loadOperands o n a s).sent = s.sent := (rfl)
@[simp] theorem loadOperands_hostData (o : Byte) (n : Half) (a : Addr) (s : State) : (loadOperands o n a s).hostData = s.hostData := (rfl)
@[simp] theorem loadOperands_params (o : Byte) (n : Half) (a : Addr) (s : State) : (loadOperands o n a s).params = s.params := (rfl)

/-! ## memWrite -/

@[simp] theorem memWrite_csA (a : Nat) (b : Byte) (s : State) : (memWrite a b s).csA = s.csA := (rfl)
@[simp] theorem memWrite_csB (a : Nat) (b : Byte) (s : State) : (memWrite a b s).csB = s.csB := (rfl)
@[simp] theorem memWrite_csH (a : Nat) (b : Byte) (s : State) : (memWrite a b s).csH = s.csH := (rfl)
@[simp] theorem memWrite_csPh (a : Nat) (b : Byte) (s : State) : (memWrite a b s).csPh = s.csPh := (rfl)
@[simp] theorem memWrite_op (a : Nat) (b : Byte) (s : State) : (memWrite a b s).op = s.op := (rfl)
@[simp] theorem memWrite_size (a : Nat) (b : Byte) (s : State) : (memWrite a b s).size = s.size := (rfl)
@[simp] theorem memWrite_addr (a : Nat) (b : Byte) (s : State) : (memWrite a b s).addr = s.addr := (rfl)
@[simp] theorem memWrite_wr (a : Nat) (b : Byte) (s : State) : (memWrite a b s).wr = s.wr := (rfl)
@[simp] theorem memWrite_fb (a : Nat) (b : Byte) (s : State) : (memWrite a b s).fb = s.fb := (rfl)
@[simp] theorem memWrite_rb (a : Nat) (b : Byte) (s : State) : (memWrite a b s).rb = s.rb := (rfl)
@[simp] theorem memWrite_rcnt (a : Nat) (b : Byte) (s : State) : (memWrite a b s).rcnt = s.rcnt := (rfl)
@[simp] theorem memWrite_dOp (a : Nat) (b : Byte) (s : State) : (memWrite a b s).dOp = s.dOp := (rfl)
@[simp] theorem memWrite_dSize (a : Nat) (b : Byte) (s : State) : (memWrite a b s).dSize = s.dSize := (rfl)
@[simp] theorem memWrite_dAddr (a : Nat) (b : Byte) (s : State) : (memWrite a b s).dAddr = s.dAddr := (rfl)
@[simp] theorem memWrite_dWr (a : Nat) (b : Byte) (s : State) : (memWrite a b s).dWr = s.dWr := (rfl)
@[simp] theorem memWrite_dOk (a : Nat) (b : Byte) (s : State) : (memWrite a b s).dOk = s.dOk := (rfl)
@[simp] theorem memWrite_dKnown (a : Nat) (b : Byte) (s : State) : (memWrite a b s).dKnown = s.dKnown := (rfl)
@[simp] theorem memWrite_rspStatus (a : Nat) (b : Byte) (s : State) : (memWrite a b s).rspStatus = s.rspStatus := (rfl)
@[simp] theorem memWrite_rspCsum (a : Nat) (b : Byte) (s : State) : (memWrite a b s).rspCsum = s.rspCsum := (rfl)
@[simp] theorem memWrite_infoVersion (a : Nat) (b : Byte) (s : State) : (memWrite a b s).infoVersion = s.infoVersion := (rfl)
@[simp] theorem memWrite_infoMaxpkt (a : Nat) (b : Byte) (s : State) : (memWrite a b s).infoMaxpkt = s.infoMaxpkt := (rfl)
@[simp] theorem memWrite_infoDevid (a : Nat) (b : Byte) (s : State) : (memWrite a b s).infoDevid = s.infoDevid := (rfl)
@[simp] theorem memWrite_infoRow (a : Nat) (b : Byte) (s : State) : (memWrite a b s).infoRow = s.infoRow := (rfl)
@[simp] theorem memWrite_infoLatch (a : Nat) (b : Byte) (s : State) : (memWrite a b s).infoLatch = s.infoLatch := (rfl)
@[simp] theorem memWrite_infoCfg (a : Nat) (b : Byte) (s : State) : (memWrite a b s).infoCfg = s.infoCfg := (rfl)
@[simp] theorem memWrite_infoValid (a : Nat) (b : Byte) (s : State) : (memWrite a b s).infoValid = s.infoValid := (rfl)
@[simp] theorem memWrite_tstate (a : Nat) (b : Byte) (s : State) : (memWrite a b s).tstate = s.tstate := (rfl)
@[simp] theorem memWrite_idx (a : Nat) (b : Byte) (s : State) : (memWrite a b s).idx = s.idx := (rfl)
@[simp] theorem memWrite_timer (a : Nat) (b : Byte) (s : State) : (memWrite a b s).timer = s.timer := (rfl)
@[simp] theorem memWrite_tres (a : Nat) (b : Byte) (s : State) : (memWrite a b s).tres = s.tres := (rfl)
@[simp] theorem memWrite_sstate (a : Nat) (b : Byte) (s : State) : (memWrite a b s).sstate = s.sstate := (rfl)
@[simp] theorem memWrite_failPhase (a : Nat) (b : Byte) (s : State) : (memWrite a b s).failPhase = s.failPhase := (rfl)
@[simp] theorem memWrite_failCause (a : Nat) (b : Byte) (s : State) : (memWrite a b s).failCause = s.failCause := (rfl)
@[simp] theorem memWrite_offset (a : Nat) (b : Byte) (s : State) : (memWrite a b s).offset = s.offset := (rfl)
@[simp] theorem memWrite_progress (a : Nat) (b : Byte) (s : State) : (memWrite a b s).progress = s.progress := (rfl)
@[simp] theorem memWrite_herr (a : Nat) (b : Byte) (s : State) : (memWrite a b s).herr = s.herr := (rfl)
@[simp] theorem memWrite_img (a : Nat) (b : Byte) (s : State) : (memWrite a b s).img = cellWrite s.img a b := (rfl)
@[simp] theorem memWrite_pending (a : Nat) (b : Byte) (s : State) : (memWrite a b s).pending = s.pending := (rfl)
@[simp] theorem memWrite_sent (a : Nat) (b : Byte) (s : State) : (memWrite a b s).sent = s.sent := (rfl)
@[simp] theorem memWrite_hostData (a : Nat) (b : Byte) (s : State) : (memWrite a b s).hostData = s.hostData := (rfl)
@[simp] theorem memWrite_params (a : Nat) (b : Byte) (s : State) : (memWrite a b s).params = s.params := (rfl)

/-! ## csClear -/

@[simp] theorem csClear_csA (s : State) : (csClear s).csA = 0 := (rfl)
@[simp] theorem csClear_csB (s : State) : (csClear s).csB = 0 := (rfl)
@[simp] theorem csClear_csH (s : State) : (csClear s).csH = 0 := (rfl)
@[simp] theorem csClear_csPh (s : State) : (csClear s).csPh = false := (rfl)
@[simp] theorem csClear_op (s : State) : (csClear s).op = s.op := (rfl)
@[simp] theorem csClear_size (s : State) : (csClear s).size = s.size := (rfl)
@[simp] theorem csClear_addr (s : State) : (csClear s).addr = s.addr := (rfl)
@[simp] theorem csClear_wr (s : State) : (csClear s).wr = s.wr := (rfl)
@[simp] theorem csClear_fb (s : State) : (csClear s).fb = s.fb := (rfl)
@[simp] theorem csClear_rb (s : State) : (csClear s).rb = s.rb := (rfl)
@[simp] theorem csClear_rcnt (s : State) : (csClear s).rcnt = s.rcnt := (rfl)
@[simp] theorem csClear_dOp (s : State) : (csClear s).dOp = s.dOp := (rfl)
@[simp] theorem csClear_dSize (s : State) : (csClear s).dSize = s.dSize := (rfl)
@[simp] theorem csClear_dAddr (s : State) : (csClear s).dAddr = s.dAddr := (rfl)
@[simp] theorem csClear_dWr (s : State) : (csClear s).dWr = s.dWr := (rfl)
@[simp] theorem csClear_dOk (s : State) : (csClear s).dOk = s.dOk := (rfl)
@[simp] theorem csClear_dKnown (s : State) : (csClear s).dKnown = s.dKnown := (rfl)
@[simp] theorem csClear_rspStatus (s : State) : (csClear s).rspStatus = s.rspStatus := (rfl)
@[simp] theorem csClear_rspCsum (s : State) : (csClear s).rspCsum = s.rspCsum := (rfl)
@[simp] theorem csClear_infoVersion (s : State) : (csClear s).infoVersion = s.infoVersion := (rfl)
@[simp] theorem csClear_infoMaxpkt (s : State) : (csClear s).infoMaxpkt = s.infoMaxpkt := (rfl)
@[simp] theorem csClear_infoDevid (s : State) : (csClear s).infoDevid = s.infoDevid := (rfl)
@[simp] theorem csClear_infoRow (s : State) : (csClear s).infoRow = s.infoRow := (rfl)
@[simp] theorem csClear_infoLatch (s : State) : (csClear s).infoLatch = s.infoLatch := (rfl)
@[simp] theorem csClear_infoCfg (s : State) : (csClear s).infoCfg = s.infoCfg := (rfl)
@[simp] theorem csClear_infoValid (s : State) : (csClear s).infoValid = s.infoValid := (rfl)
@[simp] theorem csClear_tstate (s : State) : (csClear s).tstate = s.tstate := (rfl)
@[simp] theorem csClear_idx (s : State) : (csClear s).idx = s.idx := (rfl)
@[simp] theorem csClear_timer (s : State) : (csClear s).timer = s.timer := (rfl)
@[simp] theorem csClear_tres (s : State) : (csClear s).tres = s.tres := (rfl)
@[simp] theorem csClear_sstate (s : State) : (csClear s).sstate = s.sstate := (rfl)
@[simp] theorem csClear_failPhase (s : State) : (csClear s).failPhase = s.failPhase := (rfl)
@[simp] theorem csClear_failCause (s : State) : (csClear s).failCause = s.failCause := (rfl)
@[simp] theorem csClear_offset (s : State) : (csClear s).offset = s.offset := (rfl)
@[simp] theorem csClear_progress (s : State) : (csClear s).progress = s.progress := (rfl)
@[simp] theorem csClear_herr (s : State) : (csClear s).herr = s.herr := (rfl)
@[simp] theorem csClear_img (s : State) : (csClear s).img = s.img := (rfl)
@[simp] theorem csClear_pending (s : State) : (csClear s).pending = s.pending := (rfl)
@[simp] theorem csClear_sent (s : State) : (csClear s).sent = s.sent := (rfl)
@[simp] theorem csClear_hostData (s : State) : (csClear s).hostData = s.hostData := (rfl)
@[simp] theorem csClear_params (s : State) : (csClear s).params = s.params := (rfl)

/-! ## buildFrame -/

@[simp] theorem buildFrame_csA (s : State) : (buildFrame s).csA = s.csA := (rfl)
@[simp] theorem buildFrame_csB (s : State) : (buildFrame s).csB = s.csB := (rfl)
@[simp] theorem buildFrame_csH (s : State) : (buildFrame s).csH = s.csH := (rfl)
@[simp] theorem buildFrame_csPh (s : State) : (buildFrame s).csPh = s.csPh := (rfl)
@[simp] theorem buildFrame_op (s : State) : (buildFrame s).op = s.op := (rfl)
@[simp] theorem buildFrame_size (s : State) : (buildFrame s).size = s.size := (rfl)
@[simp] theorem buildFrame_addr (s : State) : (buildFrame s).addr = s.addr := (rfl)
@[simp] theorem buildFrame_wr (s : State) : (buildFrame s).wr = s.wr := (rfl)
@[simp] theorem buildFrame_fb (s : State) : (buildFrame s).fb = frameOf s.op s.size s.addr s.wr := (rfl)
@[simp] theorem buildFrame_rb (s : State) : (buildFrame s).rb = s.rb := (rfl)
@[simp] theorem buildFrame_rcnt (s : State) : (buildFrame s).rcnt = s.rcnt := (rfl)
@[simp] theorem buildFrame_dOp (s : State) : (buildFrame s).dOp = s.dOp := (rfl)
@[simp] theorem buildFrame_dSize (s : State) : (buildFrame s).dSize = s.dSize := (rfl)
@[simp] theorem buildFrame_dAddr (s : State) : (buildFrame s).dAddr = s.dAddr := (rfl)
@[simp] theorem buildFrame_dWr (s : State) : (buildFrame s).dWr = s.dWr := (rfl)
@[simp] theorem buildFrame_dOk (s : State) : (buildFrame s).dOk = s.dOk := (rfl)
@[simp] theorem buildFrame_dKnown (s : State) : (buildFrame s).dKnown = s.dKnown := (rfl)
@[simp] theorem buildFrame_rspStatus (s : State) : (buildFrame s).rspStatus = s.rspStatus := (rfl)
@[simp] theorem buildFrame_rspCsum (s : State) : (buildFrame s).rspCsum = s.rspCsum := (rfl)
@[simp] theorem buildFrame_infoVersion (s : State) : (buildFrame s).infoVersion = s.infoVersion := (rfl)
@[simp] theorem buildFrame_infoMaxpkt (s : State) : (buildFrame s).infoMaxpkt = s.infoMaxpkt := (rfl)
@[simp] theorem buildFrame_infoDevid (s : State) : (buildFrame s).infoDevid = s.infoDevid := (rfl)
@[simp] theorem buildFrame_infoRow (s : State) : (buildFrame s).infoRow = s.infoRow := (rfl)
@[simp] theorem buildFrame_infoLatch (s : State) : (buildFrame s).infoLatch = s.infoLatch := (rfl)
@[simp] theorem buildFrame_infoCfg (s : State) : (buildFrame s).infoCfg = s.infoCfg := (rfl)
@[simp] theorem buildFrame_infoValid (s : State) : (buildFrame s).infoValid = s.infoValid := (rfl)
@[simp] theorem buildFrame_tstate (s : State) : (buildFrame s).tstate = s.tstate := (rfl)
@[simp] theorem buildFrame_idx (s : State) : (buildFrame s).idx = s.idx := (rfl)
@[simp] theorem buildFrame_timer (s : State) : (buildFrame s).timer = s.timer := (rfl)
@[simp] theorem buildFrame_tres (s : State) : (buildFrame s).tres = s.tres := (rfl)
@[simp] theorem buildFrame_sstate (s : State) : (buildFrame s).sstate = s.sstate := (rfl)
@[simp] theorem buildFrame_failPhase (s : State) : (buildFrame s).failPhase = s.failPhase := (rfl)
@[simp] theorem buildFrame_failCause (s : State) : (buildFrame s).failCause = s.failCause := (rfl)
@[simp] theorem buildFrame_offset (s : State) : (buildFrame s).offset = s.offset := (rfl)
@[simp] theorem buildFrame_progress (s : State) : (buildFrame s).progress = s.progress := (rfl)
@[simp] theorem buildFrame_herr (s : State) : (buildFrame s).herr = s.herr := (rfl)
@[simp] theorem buildFrame_img (s : State) : (buildFrame s).img = s.img := (rfl)
@[simp] theorem buildFrame_pending (s : State) : (buildFrame s).pending = s.pending := (rfl)
@[simp] theorem buildFrame_sent (s : State) : (buildFrame s).sent = s.sent := (rfl)
@[simp] theorem buildFrame_hostData (s : State) : (buildFrame s).hostData = s.hostData := (rfl)
@[simp] theorem buildFrame_params (s : State) : (buildFrame s).params = s.params := (rfl)

/-! ## takeFrame -/

@[simp] theorem takeFrame_csA (s : State) : (takeFrame s).csA = s.csA := (rfl)
@[simp] theorem takeFrame_csB (s : State) : (takeFrame s).csB = s.csB := (rfl)
@[simp] theorem takeFrame_csH (s : State) : (takeFrame s).csH = s.csH := (rfl)
@[simp] theorem takeFrame_csPh (s : State) : (takeFrame s).csPh = s.csPh := (rfl)
@[simp] theorem takeFrame_op (s : State) : (takeFrame s).op = s.op := (rfl)
@[simp] theorem takeFrame_size (s : State) : (takeFrame s).size = s.size := (rfl)
@[simp] theorem takeFrame_addr (s : State) : (takeFrame s).addr = s.addr := (rfl)
@[simp] theorem takeFrame_wr (s : State) : (takeFrame s).wr = s.wr := (rfl)
@[simp] theorem takeFrame_fb (s : State) : (takeFrame s).fb = s.fb := (rfl)
@[simp] theorem takeFrame_rb (s : State) : (takeFrame s).rb = s.rb := (rfl)
@[simp] theorem takeFrame_rcnt (s : State) : (takeFrame s).rcnt = s.rcnt := (rfl)
@[simp] theorem takeFrame_dOp (s : State) : (takeFrame s).dOp = (decodeCmd s.fb).op := (rfl)
@[simp] theorem takeFrame_dSize (s : State) : (takeFrame s).dSize = (decodeCmd s.fb).size := (rfl)
@[simp] theorem takeFrame_dAddr (s : State) : (takeFrame s).dAddr = (decodeCmd s.fb).addr := (rfl)
@[simp] theorem takeFrame_dWr (s : State) : (takeFrame s).dWr = (decodeCmd s.fb).wr := (rfl)
@[simp] theorem takeFrame_dOk (s : State) : (takeFrame s).dOk = (decodeCmd s.fb).ok := (rfl)
@[simp] theorem takeFrame_dKnown (s : State) : (takeFrame s).dKnown = (decodeCmd s.fb).known := (rfl)
@[simp] theorem takeFrame_rspStatus (s : State) : (takeFrame s).rspStatus = s.rspStatus := (rfl)
@[simp] theorem takeFrame_rspCsum (s : State) : (takeFrame s).rspCsum = s.rspCsum := (rfl)
@[simp] theorem takeFrame_infoVersion (s : State) : (takeFrame s).infoVersion = s.infoVersion := (rfl)
@[simp] theorem takeFrame_infoMaxpkt (s : State) : (takeFrame s).infoMaxpkt = s.infoMaxpkt := (rfl)
@[simp] theorem takeFrame_infoDevid (s : State) : (takeFrame s).infoDevid = s.infoDevid := (rfl)
@[simp] theorem takeFrame_infoRow (s : State) : (takeFrame s).infoRow = s.infoRow := (rfl)
@[simp] theorem takeFrame_infoLatch (s : State) : (takeFrame s).infoLatch = s.infoLatch := (rfl)
@[simp] theorem takeFrame_infoCfg (s : State) : (takeFrame s).infoCfg = s.infoCfg := (rfl)
@[simp] theorem takeFrame_infoValid (s : State) : (takeFrame s).infoValid = s.infoValid := (rfl)
@[simp] theorem takeFrame_tstate (s : State) : (takeFrame s).tstate = s.tstate := (rfl)
@[simp] theorem takeFrame_idx (s : State) : (takeFrame s).idx = s.idx := (rfl)
@[simp] theorem takeFrame_timer (s : State) : (takeFrame s).timer = s.timer := (rfl)
@[simp] theorem takeFrame_tres (s : State) : (takeFrame s).tres = s.tres := (rfl)
@[simp] theorem takeFrame_sstate (s : State) : (takeFrame s).sstate = s.sstate := (rfl)
@[simp] theorem takeFrame_failPhase (s : State) : (takeFrame s).failPhase = s.failPhase := (rfl)
@[simp] theorem takeFrame_failCause (s : State) : (takeFrame s).failCause = s.failCause := (rfl)
@[simp] theorem takeFrame_offset (s : State) : (takeFrame s).offset = s.offset := (rfl)
@[simp] theorem takeFrame_progress (s : State) : (takeFrame s).progress = s.progress := (rfl)
@[simp] theorem takeFrame_herr (s : State) : (takeFrame s).herr = s.herr := (rfl)
@[simp] theorem takeFrame_img (s : State) : (takeFrame s).img = s.img := (rfl)
@[simp] theorem takeFrame_pending (s : State) : (takeFrame s).pending = s.pending := (rfl)
@[simp] theorem takeFrame_sent (s : State) : (takeFrame s).sent = s.sent := (rfl)
@[simp] theorem takeFrame_hostData (s : State) : (takeFrame s).hostData = s.hostData := (rfl)
@[simp] theorem takeFrame_params (s : State) : (takeFrame s).params = s.params := (rfl)

/-! ## decodeVersion -/

@[simp] theorem decodeVersion_csA (s : State) : (decodeVersion s).csA = s.csA := (rfl)
@[simp] theorem decodeVersion_csB (s : State) : (decodeVersion s).csB = s.csB := (rfl)
@[simp] theorem decodeVersion_csH (s : State) : (decodeVersion s).csH = s.csH := (rfl)
@[simp] theorem decodeVersion_csPh (s : State) : (decodeVersion s).csPh = s.csPh := (rfl)
@[simp] theorem decodeVersion_op (s : State) : (decodeVersion s).op = s.op := (rfl)
@[simp] theorem decodeVersion_size (s : State) : (decodeVersion s).size = s.size := (rfl)
@[simp] theorem decodeVersion_addr (s : State) : (decodeVersion s).addr = s.addr := (rfl)
@[simp] theorem decodeVersion_wr (s : State) : (decodeVersion s).wr = s.wr := (rfl)
@[simp] theorem decodeVersion_fb (s : State) : (decodeVersion s).fb = s.fb := (rfl)
@[simp] theorem decodeVersion_rb (s : State) : (decodeVersion s).rb = s.rb := (rfl)
@[simp] theorem decodeVersion_rcnt (s : State) : (decodeVersion s).rcnt = s.rcnt := (rfl)
@[simp] theorem decodeVersion_dOp (s : State) : (decodeVersion s).dOp = s.dOp := (rfl)
@[simp] theorem decodeVersion_dSize (s : State) : (decodeVersion s).dSize = s.dSize := (rfl)
@[simp] theorem decodeVersion_dAddr (s : State) : (decodeVersion s).dAddr = s.dAddr := (rfl)
@[simp] theorem decodeVersion_dWr (s : State) : (decodeVersion s).dWr = s.dWr := (rfl)
@[simp] theorem decodeVersion_dOk (s : State) : (decodeVersion s).dOk = s.dOk := (rfl)
@[simp] theorem decodeVersion_dKnown (s : State) : (decodeVersion s).dKnown = s.dKnown := (rfl)
@[simp] theorem decodeVersion_rspStatus (s : State) : (decodeVersion s).rspStatus = s.rspStatus := (rfl)
@[simp] theorem decodeVersion_rspCsum (s : State) : (decodeVersion s).rspCsum = s.rspCsum := (rfl)
@[simp] theorem decodeVersion_infoVersion (s : State) : (decodeVersion s).infoVersion = pair s.rb[10] s.rb[11] := (rfl)
@[simp] theorem decodeVersion_infoMaxpkt (s : State) : (decodeVersion s).infoMaxpkt = pair s.rb[12] s.rb[13] := (rfl)
@[simp] theorem decodeVersion_infoDevid (s : State) : (decodeVersion s).infoDevid = pair s.rb[16] s.rb[17] := (rfl)
@[simp] theorem decodeVersion_infoRow (s : State) : (decodeVersion s).infoRow = s.rb[20] := (rfl)
@[simp] theorem decodeVersion_infoLatch (s : State) : (decodeVersion s).infoLatch = s.rb[21] := (rfl)
@[simp] theorem decodeVersion_infoCfg (s : State) : (decodeVersion s).infoCfg = wordOf s.rb[22] s.rb[23] s.rb[24] s.rb[25] := (rfl)
@[simp] theorem decodeVersion_infoValid (s : State) : (decodeVersion s).infoValid = true := (rfl)
@[simp] theorem decodeVersion_tstate (s : State) : (decodeVersion s).tstate = s.tstate := (rfl)
@[simp] theorem decodeVersion_idx (s : State) : (decodeVersion s).idx = s.idx := (rfl)
@[simp] theorem decodeVersion_timer (s : State) : (decodeVersion s).timer = s.timer := (rfl)
@[simp] theorem decodeVersion_tres (s : State) : (decodeVersion s).tres = s.tres := (rfl)
@[simp] theorem decodeVersion_sstate (s : State) : (decodeVersion s).sstate = s.sstate := (rfl)
@[simp] theorem decodeVersion_failPhase (s : State) : (decodeVersion s).failPhase = s.failPhase := (rfl)
@[simp] theorem decodeVersion_failCause (s : State) : (decodeVersion s).failCause = s.failCause := (rfl)
@[simp] theorem decodeVersion_offset (s : State) : (decodeVersion s).offset = s.offset := (rfl)
@[simp] theorem decodeVersion_progress (s : State) : (decodeVersion s).progress = s.progress := (rfl)
@[simp] theorem decodeVersion_herr (s : State) : (decodeVersion s).herr = s.herr := (rfl)
@[simp] theorem decodeVersion_img (s : State) : (decodeVersion s).img = s.img := (rfl)
@[simp] theorem decodeVersion_pending (s : State) : (decodeVersion s).pending = s.pending := (rfl)
@[simp] theorem decodeVersion_sent (s : State) : (decodeVersion s).sent = s.sent := (rfl)
@[simp] theorem decodeVersion_hostData (s : State) : (decodeVersion s).hostData = s.hostData := (rfl)
@[simp] theorem decodeVersion_params (s : State) : (decodeVersion s).params = s.params := (rfl)

/-! ## decodeStatus -/

@[simp] theorem decodeStatus_csA (s : State) : (decodeStatus s).csA = s.csA := (rfl)
@[simp] theorem decodeStatus_csB (s : State) : (decodeStatus s).csB = s.csB := (rfl)
@[simp] theorem decodeStatus_csH (s : State) : (decodeStatus s).csH = s.csH := (rfl)
@[simp] theorem decodeStatus_csPh (s : State) : (decodeStatus s).csPh = s.csPh := (rfl)
@[simp] theorem decodeStatus_op (s : State) : (decodeStatus s).op = s.op := (rfl)
@[simp] theorem decodeStatus_size (s : State) : (decodeStatus s).size = s.size := (rfl)
@[simp] theorem decodeStatus_addr (s : State) : (decodeStatus s).addr = s.addr := (rfl)
@[simp] theorem decodeStatus_wr (s : State) : (decodeStatus s).wr = s.wr := (rfl)
@[simp] theorem decodeStatus_fb (s : State) : (decodeStatus s).fb = s.fb := (rfl)
@[simp] theorem decodeStatus_rb (s : State) : (decodeStatus s).rb = s.rb := (rfl)
@[simp] theorem decodeStatus_rcnt (s : State) : (decodeStatus s).rcnt = s.rcnt := (rfl)
@[simp] theorem decodeStatus_dOp (s : State) : (decodeStatus s).dOp = s.dOp := (rfl)
@[simp] theorem decodeStatus_dSize (s : State) : (decodeStatus s).dSize = s.dSize := (rfl)
@[simp] theorem decodeStatus_dAddr (s : State) : (decodeStatus s).dAddr = s.dAddr := (rfl)
@[simp] theorem decodeStatus_dWr (s : State) : (decodeStatus s).dWr = s.dWr := (rfl)
@[simp] theorem decodeStatus_dOk (s : State) : (decodeStatus s).dOk = s.dOk := (rfl)
@[simp] theorem decodeStatus_dKnown (s : State) : (decodeStatus s).dKnown = s.dKnown := (rfl)
@[simp] theorem decodeStatus_rspStatus (s : State) : (decodeStatus s).rspStatus = s.rb[10] := (rfl)
@[simp] theorem decodeStatus_rspCsum (s : State) : (decodeStatus s).rspCsum = s.rspCsum := (rfl)
@[simp] theorem decodeStatus_infoVersion (s : State) : (decodeStatus s).infoVersion = s.infoVersion := (rfl)
@[simp] theorem decodeStatus_infoMaxpkt (s : State) : (decodeStatus s).infoMaxpkt = s.infoMaxpkt := (rfl)
@[simp] theorem decodeStatus_infoDevid (s : State) : (decodeStatus s).infoDevid = s.infoDevid := (rfl)
@[simp] theorem decodeStatus_infoRow (s : State) : (decodeStatus s).infoRow = s.infoRow := (rfl)
@[simp] theorem decodeStatus_infoLatch (s : State) : (decodeStatus s).infoLatch = s.infoLatch := (rfl)
@[simp] theorem decodeStatus_infoCfg (s : State) : (decodeStatus s).infoCfg = s.infoCfg := (rfl)
@[simp] theorem decodeStatus_infoValid (s : State) : (decodeStatus s).infoValid = s.infoValid := (rfl)
@[simp] theorem decodeStatus_tstate (s : State) : (decodeStatus s).tstate = s.tstate := (rfl)
@[simp] theorem decodeStatus_idx (s : State) : (decodeStatus s).idx = s.idx := (rfl)
@[simp] theorem decodeStatus_timer (s : State) : (decodeStatus s).timer = s.timer := (rfl)
@[simp] theorem decodeStatus_tres (s : State) : (decodeStatus s).tres = s.tres := (rfl)
@[simp] theorem decodeStatus_sstate (s : State) : (decodeStatus s).sstate = s.sstate := (rfl)
@[simp] theorem decodeStatus_failPhase (s : State) : (decodeStatus s).failPhase = s.failPhase := (rfl)
@[simp] theorem decodeStatus_failCause (s : State) : (decodeStatus s).failCause = s.failCause := (rfl)
@[simp] theorem decodeStatus_offset (s : State) : (decodeStatus s).offset = s.offset := (rfl)
@[simp] theorem decodeStatus_progress (s : State) : (decodeStatus s).progress = s.progress := (rfl)
@[simp] theorem decodeStatus_herr (s : State) : (decodeStatus s).herr = s.herr := (rfl)
@[simp] theorem decodeStatus_img (s : State) : (decodeStatus s).img = s.img := (rfl)
@[simp] theorem decodeStatus_pending (s : State) : (decodeStatus s).pending = s.pending := (rfl)
@[simp] theorem decodeStatus_sent (s : State) : (decodeStatus s).sent = s.sent := (rfl)
@[simp] theorem decodeStatus_hostData (s : State) : (decodeStatus s).hostData = s.hostData := (rfl)
@[simp] theorem decodeStatus_params (s : State) : (decodeStatus s).params = s.params := (rfl)

/-! ## decodeCsum -/

@[simp] theorem decodeCsum_csA (s : State) : (decodeCsum s).csA = s.csA := (rfl)
@[simp] theorem decodeCsum_csB (s : State) : (decodeCsum s).csB = s.csB := (rfl)
@[simp] theorem decodeCsum_csH (s : State) : (decodeCsum s).csH = s.csH := (rfl)
@[simp] theorem decodeCsum_csPh (s : State) : (decodeCsum s).csPh = s.csPh := (rfl)
@[simp] theorem decodeCsum_op (s : State) : (decodeCsum s).op = s.op := (rfl)
@[simp] theorem decodeCsum_size (s : State) : (decodeCsum s).size = s.size := (rfl)
@[simp] theorem decodeCsum_addr (s : State) : (decodeCsum s).addr = s.addr := (rfl)
@[simp] theorem decodeCsum_wr (s : State) : (decodeCsum s).wr = s.wr := (rfl)
@[simp] theorem decodeCsum_fb (s : State) : (decodeCsum s).fb = s.fb := (rfl)
@[simp] theorem decodeCsum_rb (s : State) : (decodeCsum s).rb = s.rb := (rfl)
@[simp] theorem decodeCsum_rcnt (s : State) : (decodeCsum s).rcnt = s.rcnt := (rfl)
@[simp] theorem decodeCsum_dOp (s : State) : (decodeCsum s).dOp = s.dOp := (rfl)
@[simp] theorem decodeCsum_dSize (s : State) : (decodeCsum s).dSize = s.dSize := (rfl)
@[simp] theorem decodeCsum_dAddr (s : State) : (decodeCsum s).dAddr = s.dAddr := (rfl)
@[simp] theorem decodeCsum_dWr (s : State) : (decodeCsum s).dWr = s.dWr := (rfl)
@[simp] theorem decodeCsum_dOk (s : State) : (decodeCsum s).dOk = s.dOk := (rfl)
@[simp] theorem decodeCsum_dKnown (s : State) : (decodeCsum s).dKnown = s.dKnown := (rfl)
@[simp] theorem decodeCsum_rspStatus (s : State) : (decodeCsum s).rspStatus = s.rspStatus := (rfl)
@[simp] theorem decodeCsum_rspCsum (s : State) : (decodeCsum s).rspCsum = pair s.rb[10] s.rb[11] := (rfl)
@[simp] theorem decodeCsum_infoVersion (s : State) : (decodeCsum s).infoVersion = s.infoVersion := (rfl)
@[simp] theorem decodeCsum_infoMaxpkt (s : State) : (decodeCsum s).infoMaxpkt = s.infoMaxpkt := (rfl)
@[simp] theorem decodeCsum_infoDevid (s : State) : (decodeCsum s).infoDevid = s.infoDevid := (rfl)
@[simp] theorem decodeCsum_infoRow (s : State) : (decodeCsum s).infoRow = s.infoRow := (rfl)
@[simp] theorem decodeCsum_infoLatch (s : State) : (decodeCsum s).infoLatch = s.infoLatch := (rfl)
@[simp] theorem decodeCsum_infoCfg (s : State) : (decodeCsum s).infoCfg = s.infoCfg := (rfl)
@[simp] theorem decodeCsum_infoValid (s : State) : (decodeCsum s).infoValid = s.infoValid := (rfl)
@[simp] theorem decodeCsum_tstate (s : State) : (decodeCsum s).tstate = s.tstate := (rfl)
@[simp] theorem decodeCsum_idx (s : State) : (decodeCsum s).idx = s.idx := (rfl)
@[simp] theorem decodeCsum_timer (s : State) : (decodeCsum s).timer = s.timer := (rfl)
@[simp] theorem decodeCsum_tres (s : State) : (decodeCsum s).tres = s.tres := (rfl)
@[simp] theorem decodeCsum_sstate (s : State) : (decodeCsum s).sstate = s.sstate := (rfl)
@[simp] theorem decodeCsum_failPhase (s : State) : (decodeCsum s).failPhase = s.failPhase := (rfl)
@[simp] theorem decodeCsum_failCause (s : State) : (decodeCsum s).failCause = s.failCause := (rfl)
@[simp] theorem decodeCsum_offset (s : State) : (decodeCsum s).offset = s.offset := (rfl)
@[simp] theorem decodeCsum_progress (s : State) : (decodeCsum s).progress = s.progress := (rfl)
@[simp] theorem decodeCsum_herr (s : State) : (decodeCsum s).herr = s.herr := (rfl)
@[simp] theorem decodeCsum_img (s : State) : (decodeCsum s).img = s.img := (rfl)
@[simp] theorem decodeCsum_pending (s : State) : (decodeCsum s).pending = s.pending := (rfl)
@[simp] theorem decodeCsum_sent (s : State) : (decodeCsum s).sent = s.sent := (rfl)
@[simp] theorem decodeCsum_hostData (s : State) : (decodeCsum s).hostData = s.hostData := (rfl)
@[simp] theorem decodeCsum_params (s : State) : (decodeCsum s).params = s.params := (rfl)

/-! ## launch -/

@[simp] theorem launch_csA (s : State) : (launch s).csA = s.csA := (rfl)
@[simp] theorem launch_csB (s : State) : (launch s).csB = s.csB := (rfl)
@[simp] theorem launch_csH (s : State) : (launch s).csH = s.csH := (rfl)
@[simp] theorem launch_csPh (s : State) : (launch s).csPh = s.csPh := (rfl)
@[simp] theorem launch_op (s : State) : (launch s).op = s.op := (rfl)
@[simp] theorem launch_size (s : State) : (launch s).size = s.size := (rfl)
@[simp] theorem launch_addr (s : State) : (launch s).addr = s.addr := (rfl)
@[simp] theorem launch_wr (s : State) : (launch s).wr = wrOf s.params.eraseWr s.op := (rfl)
@[simp] theorem launch_fb (s : State) : (launch s).fb = frameOf s.op s.size s.addr (wrOf s.params.eraseWr s.op) := (rfl)
@[simp] theorem launch_rb (s : State) : (launch s).rb = s.rb := (rfl)
@[simp] theorem launch_rcnt (s : State) : (launch s).rcnt = 0 := (rfl)
@[simp] theorem launch_dOp (s : State) : (launch s).dOp = s.dOp := (rfl)
@[simp] theorem launch_dSize (s : State) : (launch s).dSize = s.dSize := (rfl)
@[simp] theorem launch_dAddr (s : State) : (launch s).dAddr = s.dAddr := (rfl)
@[simp] theorem launch_dWr (s : State) : (launch s).dWr = s.dWr := (rfl)
@[simp] theorem launch_dOk (s : State) : (launch s).dOk = s.dOk := (rfl)
@[simp] theorem launch_dKnown (s : State) : (launch s).dKnown = s.dKnown := (rfl)
@[simp] theorem launch_rspStatus (s : State) : (launch s).rspStatus = s.rspStatus := (rfl)
@[simp] theorem launch_rspCsum (s : State) : (launch s).rspCsum = s.rspCsum := (rfl)
@[simp] theorem launch_infoVersion (s : State) : (launch s).infoVersion = s.infoVersion := (rfl)
@[simp] theorem launch_infoMaxpkt (s : State) : (launch s).infoMaxpkt = s.infoMaxpkt := (rfl)
@[simp] theorem launch_infoDevid (s : State) : (launch s).infoDevid = s.infoDevid := (rfl)
@[simp] theorem launch_infoRow (s : State) : (launch s).infoRow = s.infoRow := (rfl)
@[simp] theorem launch_infoLatch (s : State) : (launch s).infoLatch = s.infoLatch := (rfl)
@[simp] theorem launch_infoCfg (s : State) : (launch s).infoCfg = s.infoCfg := (rfl)
@[simp] theorem launch_infoValid (s : State) : (launch s).infoValid = if s.op = 0x00 then false else s.infoValid := (rfl)
@[simp] theorem launch_tstate (s : State) : (launch s).tstate = .txf := (rfl)
@[simp] theorem launch_idx (s : State) : (launch s).idx = 0 := (rfl)
@[simp] theorem launch_timer (s : State) : (launch s).timer = s.timer := (rfl)
@[simp] theorem launch_tres (s : State) : (launch s).tres = .eNone := (rfl)
@[simp] theorem launch_sstate (s : State) : (launch s).sstate = s.sstate := (rfl)
@[simp] theorem launch_failPhase (s : State) : (launch s).failPhase = s.failPhase := (rfl)
@[simp] theorem launch_failCause (s : State) : (launch s).failCause = s.failCause := (rfl)
@[simp] theorem launch_offset (s : State) : (launch s).offset = s.offset := (rfl)
@[simp] theorem launch_progress (s : State) : (launch s).progress = s.progress := (rfl)
@[simp] theorem launch_herr (s : State) : (launch s).herr = s.herr := (rfl)
@[simp] theorem launch_img (s : State) : (launch s).img = s.img := (rfl)
@[simp] theorem launch_pending (s : State) : (launch s).pending = s.pending := (rfl)
@[simp] theorem launch_sent (s : State) : (launch s).sent = s.sent := (rfl)
@[simp] theorem launch_hostData (s : State) : (launch s).hostData = s.hostData := (rfl)
@[simp] theorem launch_params (s : State) : (launch s).params = s.params := (rfl)

/-! ## nextPage -/

@[simp] theorem nextPage_csA (s : State) : (nextPage s).csA = s.csA := (rfl)
@[simp] theorem nextPage_csB (s : State) : (nextPage s).csB = s.csB := (rfl)
@[simp] theorem nextPage_csH (s : State) : (nextPage s).csH = s.csH := (rfl)
@[simp] theorem nextPage_csPh (s : State) : (nextPage s).csPh = s.csPh := (rfl)
@[simp] theorem nextPage_op (s : State) : (nextPage s).op = s.op := (rfl)
@[simp] theorem nextPage_size (s : State) : (nextPage s).size = s.size := (rfl)
@[simp] theorem nextPage_addr (s : State) : (nextPage s).addr = s.addr := (rfl)
@[simp] theorem nextPage_wr (s : State) : (nextPage s).wr = s.wr := (rfl)
@[simp] theorem nextPage_fb (s : State) : (nextPage s).fb = s.fb := (rfl)
@[simp] theorem nextPage_rb (s : State) : (nextPage s).rb = s.rb := (rfl)
@[simp] theorem nextPage_rcnt (s : State) : (nextPage s).rcnt = s.rcnt := (rfl)
@[simp] theorem nextPage_dOp (s : State) : (nextPage s).dOp = s.dOp := (rfl)
@[simp] theorem nextPage_dSize (s : State) : (nextPage s).dSize = s.dSize := (rfl)
@[simp] theorem nextPage_dAddr (s : State) : (nextPage s).dAddr = s.dAddr := (rfl)
@[simp] theorem nextPage_dWr (s : State) : (nextPage s).dWr = s.dWr := (rfl)
@[simp] theorem nextPage_dOk (s : State) : (nextPage s).dOk = s.dOk := (rfl)
@[simp] theorem nextPage_dKnown (s : State) : (nextPage s).dKnown = s.dKnown := (rfl)
@[simp] theorem nextPage_rspStatus (s : State) : (nextPage s).rspStatus = s.rspStatus := (rfl)
@[simp] theorem nextPage_rspCsum (s : State) : (nextPage s).rspCsum = s.rspCsum := (rfl)
@[simp] theorem nextPage_infoVersion (s : State) : (nextPage s).infoVersion = s.infoVersion := (rfl)
@[simp] theorem nextPage_infoMaxpkt (s : State) : (nextPage s).infoMaxpkt = s.infoMaxpkt := (rfl)
@[simp] theorem nextPage_infoDevid (s : State) : (nextPage s).infoDevid = s.infoDevid := (rfl)
@[simp] theorem nextPage_infoRow (s : State) : (nextPage s).infoRow = s.infoRow := (rfl)
@[simp] theorem nextPage_infoLatch (s : State) : (nextPage s).infoLatch = s.infoLatch := (rfl)
@[simp] theorem nextPage_infoCfg (s : State) : (nextPage s).infoCfg = s.infoCfg := (rfl)
@[simp] theorem nextPage_infoValid (s : State) : (nextPage s).infoValid = s.infoValid := (rfl)
@[simp] theorem nextPage_tstate (s : State) : (nextPage s).tstate = s.tstate := (rfl)
@[simp] theorem nextPage_idx (s : State) : (nextPage s).idx = s.idx := (rfl)
@[simp] theorem nextPage_timer (s : State) : (nextPage s).timer = s.timer := (rfl)
@[simp] theorem nextPage_tres (s : State) : (nextPage s).tres = s.tres := (rfl)
@[simp] theorem nextPage_sstate (s : State) : (nextPage s).sstate = s.sstate := (rfl)
@[simp] theorem nextPage_failPhase (s : State) : (nextPage s).failPhase = s.failPhase := (rfl)
@[simp] theorem nextPage_failCause (s : State) : (nextPage s).failCause = s.failCause := (rfl)
@[simp] theorem nextPage_offset (s : State) : (nextPage s).offset = s.offset + BitVec.ofNat 24 Config.page := (rfl)
@[simp] theorem nextPage_progress (s : State) : (nextPage s).progress = progressAt (s.offset + BitVec.ofNat 24 Config.page) := (rfl)
@[simp] theorem nextPage_herr (s : State) : (nextPage s).herr = s.herr := (rfl)
@[simp] theorem nextPage_img (s : State) : (nextPage s).img = s.img := (rfl)
@[simp] theorem nextPage_pending (s : State) : (nextPage s).pending = s.pending := (rfl)
@[simp] theorem nextPage_sent (s : State) : (nextPage s).sent = s.sent := (rfl)
@[simp] theorem nextPage_hostData (s : State) : (nextPage s).hostData = s.hostData := (rfl)
@[simp] theorem nextPage_params (s : State) : (nextPage s).params = s.params := (rfl)

/-! ## acceptByte -/

@[simp] theorem acceptByte_csA (b : Byte) (s : State) : (acceptByte b s).csA = s.csA := (rfl)
@[simp] theorem acceptByte_csB (b : Byte) (s : State) : (acceptByte b s).csB = s.csB := (rfl)
@[simp] theorem acceptByte_csH (b : Byte) (s : State) : (acceptByte b s).csH = s.csH := (rfl)
@[simp] theorem acceptByte_csPh (b : Byte) (s : State) : (acceptByte b s).csPh = s.csPh := (rfl)
@[simp] theorem acceptByte_op (b : Byte) (s : State) : (acceptByte b s).op = s.op := (rfl)
@[simp] theorem acceptByte_size (b : Byte) (s : State) : (acceptByte b s).size = s.size := (rfl)
@[simp] theorem acceptByte_addr (b : Byte) (s : State) : (acceptByte b s).addr = s.addr := (rfl)
@[simp] theorem acceptByte_wr (b : Byte) (s : State) : (acceptByte b s).wr = s.wr := (rfl)
@[simp] theorem acceptByte_fb (b : Byte) (s : State) : (acceptByte b s).fb = s.fb := (rfl)
@[simp] theorem acceptByte_rb (b : Byte) (s : State) : (acceptByte b s).rb = s.rb := (rfl)
@[simp] theorem acceptByte_rcnt (b : Byte) (s : State) : (acceptByte b s).rcnt = s.rcnt := (rfl)
@[simp] theorem acceptByte_dOp (b : Byte) (s : State) : (acceptByte b s).dOp = s.dOp := (rfl)
@[simp] theorem acceptByte_dSize (b : Byte) (s : State) : (acceptByte b s).dSize = s.dSize := (rfl)
@[simp] theorem acceptByte_dAddr (b : Byte) (s : State) : (acceptByte b s).dAddr = s.dAddr := (rfl)
@[simp] theorem acceptByte_dWr (b : Byte) (s : State) : (acceptByte b s).dWr = s.dWr := (rfl)
@[simp] theorem acceptByte_dOk (b : Byte) (s : State) : (acceptByte b s).dOk = s.dOk := (rfl)
@[simp] theorem acceptByte_dKnown (b : Byte) (s : State) : (acceptByte b s).dKnown = s.dKnown := (rfl)
@[simp] theorem acceptByte_rspStatus (b : Byte) (s : State) : (acceptByte b s).rspStatus = s.rspStatus := (rfl)
@[simp] theorem acceptByte_rspCsum (b : Byte) (s : State) : (acceptByte b s).rspCsum = s.rspCsum := (rfl)
@[simp] theorem acceptByte_infoVersion (b : Byte) (s : State) : (acceptByte b s).infoVersion = s.infoVersion := (rfl)
@[simp] theorem acceptByte_infoMaxpkt (b : Byte) (s : State) : (acceptByte b s).infoMaxpkt = s.infoMaxpkt := (rfl)
@[simp] theorem acceptByte_infoDevid (b : Byte) (s : State) : (acceptByte b s).infoDevid = s.infoDevid := (rfl)
@[simp] theorem acceptByte_infoRow (b : Byte) (s : State) : (acceptByte b s).infoRow = s.infoRow := (rfl)
@[simp] theorem acceptByte_infoLatch (b : Byte) (s : State) : (acceptByte b s).infoLatch = s.infoLatch := (rfl)
@[simp] theorem acceptByte_infoCfg (b : Byte) (s : State) : (acceptByte b s).infoCfg = s.infoCfg := (rfl)
@[simp] theorem acceptByte_infoValid (b : Byte) (s : State) : (acceptByte b s).infoValid = s.infoValid := (rfl)
@[simp] theorem acceptByte_tstate (b : Byte) (s : State) : (acceptByte b s).tstate = s.tstate := (rfl)
@[simp] theorem acceptByte_idx (b : Byte) (s : State) : (acceptByte b s).idx = s.idx + 1 := (rfl)
@[simp] theorem acceptByte_timer (b : Byte) (s : State) : (acceptByte b s).timer = s.timer := (rfl)
@[simp] theorem acceptByte_tres (b : Byte) (s : State) : (acceptByte b s).tres = s.tres := (rfl)
@[simp] theorem acceptByte_sstate (b : Byte) (s : State) : (acceptByte b s).sstate = s.sstate := (rfl)
@[simp] theorem acceptByte_failPhase (b : Byte) (s : State) : (acceptByte b s).failPhase = s.failPhase := (rfl)
@[simp] theorem acceptByte_failCause (b : Byte) (s : State) : (acceptByte b s).failCause = s.failCause := (rfl)
@[simp] theorem acceptByte_offset (b : Byte) (s : State) : (acceptByte b s).offset = s.offset := (rfl)
@[simp] theorem acceptByte_progress (b : Byte) (s : State) : (acceptByte b s).progress = s.progress := (rfl)
@[simp] theorem acceptByte_herr (b : Byte) (s : State) : (acceptByte b s).herr = s.herr := (rfl)
@[simp] theorem acceptByte_img (b : Byte) (s : State) : (acceptByte b s).img = s.img := (rfl)
@[simp] theorem acceptByte_pending (b : Byte) (s : State) : (acceptByte b s).pending = s.pending := (rfl)
@[simp] theorem acceptByte_sent (b : Byte) (s : State) : (acceptByte b s).sent = s.sent ++ [b] := (rfl)
@[simp] theorem acceptByte_hostData (b : Byte) (s : State) : (acceptByte b s).hostData = s.hostData := (rfl)
@[simp] theorem acceptByte_params (b : Byte) (s : State) : (acceptByte b s).params = s.params := (rfl)

/-! ## storeByte -/

@[simp] theorem storeByte_csA (b : Byte) (t : Nat) (s : State) : (storeByte b t s).csA = s.csA := (rfl)
@[simp] theorem storeByte_csB (b : Byte) (t : Nat) (s : State) : (storeByte b t s).csB = s.csB := (rfl)
@[simp] theorem storeByte_csH (b : Byte) (t : Nat) (s : State) : (storeByte b t s).csH = s.csH := (rfl)
@[simp] theorem storeByte_csPh (b : Byte) (t : Nat) (s : State) : (storeByte b t s).csPh = s.csPh := (rfl)
@[simp] theorem storeByte_op (b : Byte) (t : Nat) (s : State) : (storeByte b t s).op = s.op := (rfl)
@[simp] theorem storeByte_size (b : Byte) (t : Nat) (s : State) : (storeByte b t s).size = s.size := (rfl)
@[simp] theorem storeByte_addr (b : Byte) (t : Nat) (s : State) : (storeByte b t s).addr = s.addr := (rfl)
@[simp] theorem storeByte_wr (b : Byte) (t : Nat) (s : State) : (storeByte b t s).wr = s.wr := (rfl)
@[simp] theorem storeByte_fb (b : Byte) (t : Nat) (s : State) : (storeByte b t s).fb = s.fb := (rfl)
@[simp] theorem storeByte_rb (b : Byte) (t : Nat) (s : State) : (storeByte b t s).rb = s.rb.setIfInBounds s.rcnt.toNat b := (rfl)
@[simp] theorem storeByte_rcnt (b : Byte) (t : Nat) (s : State) : (storeByte b t s).rcnt = s.rcnt + 1 := (rfl)
@[simp] theorem storeByte_dOp (b : Byte) (t : Nat) (s : State) : (storeByte b t s).dOp = s.dOp := (rfl)
@[simp] theorem storeByte_dSize (b : Byte) (t : Nat) (s : State) : (storeByte b t s).dSize = s.dSize := (rfl)
@[simp] theorem storeByte_dAddr (b : Byte) (t : Nat) (s : State) : (storeByte b t s).dAddr = s.dAddr := (rfl)
@[simp] theorem storeByte_dWr (b : Byte) (t : Nat) (s : State) : (storeByte b t s).dWr = s.dWr := (rfl)
@[simp] theorem storeByte_dOk (b : Byte) (t : Nat) (s : State) : (storeByte b t s).dOk = s.dOk := (rfl)
@[simp] theorem storeByte_dKnown (b : Byte) (t : Nat) (s : State) : (storeByte b t s).dKnown = s.dKnown := (rfl)
@[simp] theorem storeByte_rspStatus (b : Byte) (t : Nat) (s : State) : (storeByte b t s).rspStatus = s.rspStatus := (rfl)
@[simp] theorem storeByte_rspCsum (b : Byte) (t : Nat) (s : State) : (storeByte b t s).rspCsum = s.rspCsum := (rfl)
@[simp] theorem storeByte_infoVersion (b : Byte) (t : Nat) (s : State) : (storeByte b t s).infoVersion = s.infoVersion := (rfl)
@[simp] theorem storeByte_infoMaxpkt (b : Byte) (t : Nat) (s : State) : (storeByte b t s).infoMaxpkt = s.infoMaxpkt := (rfl)
@[simp] theorem storeByte_infoDevid (b : Byte) (t : Nat) (s : State) : (storeByte b t s).infoDevid = s.infoDevid := (rfl)
@[simp] theorem storeByte_infoRow (b : Byte) (t : Nat) (s : State) : (storeByte b t s).infoRow = s.infoRow := (rfl)
@[simp] theorem storeByte_infoLatch (b : Byte) (t : Nat) (s : State) : (storeByte b t s).infoLatch = s.infoLatch := (rfl)
@[simp] theorem storeByte_infoCfg (b : Byte) (t : Nat) (s : State) : (storeByte b t s).infoCfg = s.infoCfg := (rfl)
@[simp] theorem storeByte_infoValid (b : Byte) (t : Nat) (s : State) : (storeByte b t s).infoValid = s.infoValid := (rfl)
@[simp] theorem storeByte_tstate (b : Byte) (t : Nat) (s : State) : (storeByte b t s).tstate = s.tstate := (rfl)
@[simp] theorem storeByte_idx (b : Byte) (t : Nat) (s : State) : (storeByte b t s).idx = s.idx := (rfl)
@[simp] theorem storeByte_timer (b : Byte) (t : Nat) (s : State) : (storeByte b t s).timer = BitVec.ofNat 13 t := (rfl)
@[simp] theorem storeByte_tres (b : Byte) (t : Nat) (s : State) : (storeByte b t s).tres = s.tres := (rfl)
@[simp] theorem storeByte_sstate (b : Byte) (t : Nat) (s : State) : (storeByte b t s).sstate = s.sstate := (rfl)
@[simp] theorem storeByte_failPhase (b : Byte) (t : Nat) (s : State) : (storeByte b t s).failPhase = s.failPhase := (rfl)
@[simp] theorem storeByte_failCause (b : Byte) (t : Nat) (s : State) : (storeByte b t s).failCause = s.failCause := (rfl)
@[simp] theorem storeByte_offset (b : Byte) (t : Nat) (s : State) : (storeByte b t s).offset = s.offset := (rfl)
@[simp] theorem storeByte_progress (b : Byte) (t : Nat) (s : State) : (storeByte b t s).progress = s.progress := (rfl)
@[simp] theorem storeByte_herr (b : Byte) (t : Nat) (s : State) : (storeByte b t s).herr = s.herr := (rfl)
@[simp] theorem storeByte_img (b : Byte) (t : Nat) (s : State) : (storeByte b t s).img = s.img := (rfl)
@[simp] theorem storeByte_pending (b : Byte) (t : Nat) (s : State) : (storeByte b t s).pending = s.pending := (rfl)
@[simp] theorem storeByte_sent (b : Byte) (t : Nat) (s : State) : (storeByte b t s).sent = s.sent := (rfl)
@[simp] theorem storeByte_hostData (b : Byte) (t : Nat) (s : State) : (storeByte b t s).hostData = s.hostData := (rfl)
@[simp] theorem storeByte_params (b : Byte) (t : Nat) (s : State) : (storeByte b t s).params = s.params := (rfl)

/-! ## setPending -/

@[simp] theorem setPending_csA (es : List Event) (s : State) : (setPending es s).csA = s.csA := (rfl)
@[simp] theorem setPending_csB (es : List Event) (s : State) : (setPending es s).csB = s.csB := (rfl)
@[simp] theorem setPending_csH (es : List Event) (s : State) : (setPending es s).csH = s.csH := (rfl)
@[simp] theorem setPending_csPh (es : List Event) (s : State) : (setPending es s).csPh = s.csPh := (rfl)
@[simp] theorem setPending_op (es : List Event) (s : State) : (setPending es s).op = s.op := (rfl)
@[simp] theorem setPending_size (es : List Event) (s : State) : (setPending es s).size = s.size := (rfl)
@[simp] theorem setPending_addr (es : List Event) (s : State) : (setPending es s).addr = s.addr := (rfl)
@[simp] theorem setPending_wr (es : List Event) (s : State) : (setPending es s).wr = s.wr := (rfl)
@[simp] theorem setPending_fb (es : List Event) (s : State) : (setPending es s).fb = s.fb := (rfl)
@[simp] theorem setPending_rb (es : List Event) (s : State) : (setPending es s).rb = s.rb := (rfl)
@[simp] theorem setPending_rcnt (es : List Event) (s : State) : (setPending es s).rcnt = s.rcnt := (rfl)
@[simp] theorem setPending_dOp (es : List Event) (s : State) : (setPending es s).dOp = s.dOp := (rfl)
@[simp] theorem setPending_dSize (es : List Event) (s : State) : (setPending es s).dSize = s.dSize := (rfl)
@[simp] theorem setPending_dAddr (es : List Event) (s : State) : (setPending es s).dAddr = s.dAddr := (rfl)
@[simp] theorem setPending_dWr (es : List Event) (s : State) : (setPending es s).dWr = s.dWr := (rfl)
@[simp] theorem setPending_dOk (es : List Event) (s : State) : (setPending es s).dOk = s.dOk := (rfl)
@[simp] theorem setPending_dKnown (es : List Event) (s : State) : (setPending es s).dKnown = s.dKnown := (rfl)
@[simp] theorem setPending_rspStatus (es : List Event) (s : State) : (setPending es s).rspStatus = s.rspStatus := (rfl)
@[simp] theorem setPending_rspCsum (es : List Event) (s : State) : (setPending es s).rspCsum = s.rspCsum := (rfl)
@[simp] theorem setPending_infoVersion (es : List Event) (s : State) : (setPending es s).infoVersion = s.infoVersion := (rfl)
@[simp] theorem setPending_infoMaxpkt (es : List Event) (s : State) : (setPending es s).infoMaxpkt = s.infoMaxpkt := (rfl)
@[simp] theorem setPending_infoDevid (es : List Event) (s : State) : (setPending es s).infoDevid = s.infoDevid := (rfl)
@[simp] theorem setPending_infoRow (es : List Event) (s : State) : (setPending es s).infoRow = s.infoRow := (rfl)
@[simp] theorem setPending_infoLatch (es : List Event) (s : State) : (setPending es s).infoLatch = s.infoLatch := (rfl)
@[simp] theorem setPending_infoCfg (es : List Event) (s : State) : (setPending es s).infoCfg = s.infoCfg := (rfl)
@[simp] theorem setPending_infoValid (es : List Event) (s : State) : (setPending es s).infoValid = s.infoValid := (rfl)
@[simp] theorem setPending_tstate (es : List Event) (s : State) : (setPending es s).tstate = s.tstate := (rfl)
@[simp] theorem setPending_idx (es : List Event) (s : State) : (setPending es s).idx = s.idx := (rfl)
@[simp] theorem setPending_timer (es : List Event) (s : State) : (setPending es s).timer = s.timer := (rfl)
@[simp] theorem setPending_tres (es : List Event) (s : State) : (setPending es s).tres = s.tres := (rfl)
@[simp] theorem setPending_sstate (es : List Event) (s : State) : (setPending es s).sstate = s.sstate := (rfl)
@[simp] theorem setPending_failPhase (es : List Event) (s : State) : (setPending es s).failPhase = s.failPhase := (rfl)
@[simp] theorem setPending_failCause (es : List Event) (s : State) : (setPending es s).failCause = s.failCause := (rfl)
@[simp] theorem setPending_offset (es : List Event) (s : State) : (setPending es s).offset = s.offset := (rfl)
@[simp] theorem setPending_progress (es : List Event) (s : State) : (setPending es s).progress = s.progress := (rfl)
@[simp] theorem setPending_herr (es : List Event) (s : State) : (setPending es s).herr = s.herr := (rfl)
@[simp] theorem setPending_img (es : List Event) (s : State) : (setPending es s).img = s.img := (rfl)
@[simp] theorem setPending_pending (es : List Event) (s : State) : (setPending es s).pending = es := (rfl)
@[simp] theorem setPending_sent (es : List Event) (s : State) : (setPending es s).sent = s.sent := (rfl)
@[simp] theorem setPending_hostData (es : List Event) (s : State) : (setPending es s).hostData = s.hostData := (rfl)
@[simp] theorem setPending_params (es : List Event) (s : State) : (setPending es s).params = s.params := (rfl)

/-! ## endTxn -/

@[simp] theorem endTxn_csA (res : Cause) (s : State) : (endTxn res s).csA = s.csA := (rfl)
@[simp] theorem endTxn_csB (res : Cause) (s : State) : (endTxn res s).csB = s.csB := (rfl)
@[simp] theorem endTxn_csH (res : Cause) (s : State) : (endTxn res s).csH = s.csH := (rfl)
@[simp] theorem endTxn_csPh (res : Cause) (s : State) : (endTxn res s).csPh = s.csPh := (rfl)
@[simp] theorem endTxn_op (res : Cause) (s : State) : (endTxn res s).op = s.op := (rfl)
@[simp] theorem endTxn_size (res : Cause) (s : State) : (endTxn res s).size = s.size := (rfl)
@[simp] theorem endTxn_addr (res : Cause) (s : State) : (endTxn res s).addr = s.addr := (rfl)
@[simp] theorem endTxn_wr (res : Cause) (s : State) : (endTxn res s).wr = s.wr := (rfl)
@[simp] theorem endTxn_fb (res : Cause) (s : State) : (endTxn res s).fb = s.fb := (rfl)
@[simp] theorem endTxn_rb (res : Cause) (s : State) : (endTxn res s).rb = s.rb := (rfl)
@[simp] theorem endTxn_rcnt (res : Cause) (s : State) : (endTxn res s).rcnt = s.rcnt := (rfl)
@[simp] theorem endTxn_dOp (res : Cause) (s : State) : (endTxn res s).dOp = s.dOp := (rfl)
@[simp] theorem endTxn_dSize (res : Cause) (s : State) : (endTxn res s).dSize = s.dSize := (rfl)
@[simp] theorem endTxn_dAddr (res : Cause) (s : State) : (endTxn res s).dAddr = s.dAddr := (rfl)
@[simp] theorem endTxn_dWr (res : Cause) (s : State) : (endTxn res s).dWr = s.dWr := (rfl)
@[simp] theorem endTxn_dOk (res : Cause) (s : State) : (endTxn res s).dOk = s.dOk := (rfl)
@[simp] theorem endTxn_dKnown (res : Cause) (s : State) : (endTxn res s).dKnown = s.dKnown := (rfl)
@[simp] theorem endTxn_rspStatus (res : Cause) (s : State) : (endTxn res s).rspStatus = s.rspStatus := (rfl)
@[simp] theorem endTxn_rspCsum (res : Cause) (s : State) : (endTxn res s).rspCsum = s.rspCsum := (rfl)
@[simp] theorem endTxn_infoVersion (res : Cause) (s : State) : (endTxn res s).infoVersion = s.infoVersion := (rfl)
@[simp] theorem endTxn_infoMaxpkt (res : Cause) (s : State) : (endTxn res s).infoMaxpkt = s.infoMaxpkt := (rfl)
@[simp] theorem endTxn_infoDevid (res : Cause) (s : State) : (endTxn res s).infoDevid = s.infoDevid := (rfl)
@[simp] theorem endTxn_infoRow (res : Cause) (s : State) : (endTxn res s).infoRow = s.infoRow := (rfl)
@[simp] theorem endTxn_infoLatch (res : Cause) (s : State) : (endTxn res s).infoLatch = s.infoLatch := (rfl)
@[simp] theorem endTxn_infoCfg (res : Cause) (s : State) : (endTxn res s).infoCfg = s.infoCfg := (rfl)
@[simp] theorem endTxn_infoValid (res : Cause) (s : State) : (endTxn res s).infoValid = s.infoValid := (rfl)
@[simp] theorem endTxn_tstate (res : Cause) (s : State) : (endTxn res s).tstate = .idle := (rfl)
@[simp] theorem endTxn_idx (res : Cause) (s : State) : (endTxn res s).idx = s.idx := (rfl)
@[simp] theorem endTxn_timer (res : Cause) (s : State) : (endTxn res s).timer = s.timer := (rfl)
@[simp] theorem endTxn_tres (res : Cause) (s : State) : (endTxn res s).tres = res := (rfl)
@[simp] theorem endTxn_sstate (res : Cause) (s : State) : (endTxn res s).sstate = s.sstate := (rfl)
@[simp] theorem endTxn_failPhase (res : Cause) (s : State) : (endTxn res s).failPhase = s.failPhase := (rfl)
@[simp] theorem endTxn_failCause (res : Cause) (s : State) : (endTxn res s).failCause = s.failCause := (rfl)
@[simp] theorem endTxn_offset (res : Cause) (s : State) : (endTxn res s).offset = s.offset := (rfl)
@[simp] theorem endTxn_progress (res : Cause) (s : State) : (endTxn res s).progress = s.progress := (rfl)
@[simp] theorem endTxn_herr (res : Cause) (s : State) : (endTxn res s).herr = s.herr := (rfl)
@[simp] theorem endTxn_img (res : Cause) (s : State) : (endTxn res s).img = s.img := (rfl)
@[simp] theorem endTxn_pending (res : Cause) (s : State) : (endTxn res s).pending = s.pending := (rfl)
@[simp] theorem endTxn_sent (res : Cause) (s : State) : (endTxn res s).sent = s.sent := (rfl)
@[simp] theorem endTxn_hostData (res : Cause) (s : State) : (endTxn res s).hostData = s.hostData := (rfl)
@[simp] theorem endTxn_params (res : Cause) (s : State) : (endTxn res s).params = s.params := (rfl)

/-! ## enterRx -/

@[simp] theorem enterRx_csA (t : Nat) (s : State) : (enterRx t s).csA = s.csA := (rfl)
@[simp] theorem enterRx_csB (t : Nat) (s : State) : (enterRx t s).csB = s.csB := (rfl)
@[simp] theorem enterRx_csH (t : Nat) (s : State) : (enterRx t s).csH = s.csH := (rfl)
@[simp] theorem enterRx_csPh (t : Nat) (s : State) : (enterRx t s).csPh = s.csPh := (rfl)
@[simp] theorem enterRx_op (t : Nat) (s : State) : (enterRx t s).op = s.op := (rfl)
@[simp] theorem enterRx_size (t : Nat) (s : State) : (enterRx t s).size = s.size := (rfl)
@[simp] theorem enterRx_addr (t : Nat) (s : State) : (enterRx t s).addr = s.addr := (rfl)
@[simp] theorem enterRx_wr (t : Nat) (s : State) : (enterRx t s).wr = s.wr := (rfl)
@[simp] theorem enterRx_fb (t : Nat) (s : State) : (enterRx t s).fb = s.fb := (rfl)
@[simp] theorem enterRx_rb (t : Nat) (s : State) : (enterRx t s).rb = s.rb := (rfl)
@[simp] theorem enterRx_rcnt (t : Nat) (s : State) : (enterRx t s).rcnt = s.rcnt := (rfl)
@[simp] theorem enterRx_dOp (t : Nat) (s : State) : (enterRx t s).dOp = s.dOp := (rfl)
@[simp] theorem enterRx_dSize (t : Nat) (s : State) : (enterRx t s).dSize = s.dSize := (rfl)
@[simp] theorem enterRx_dAddr (t : Nat) (s : State) : (enterRx t s).dAddr = s.dAddr := (rfl)
@[simp] theorem enterRx_dWr (t : Nat) (s : State) : (enterRx t s).dWr = s.dWr := (rfl)
@[simp] theorem enterRx_dOk (t : Nat) (s : State) : (enterRx t s).dOk = s.dOk := (rfl)
@[simp] theorem enterRx_dKnown (t : Nat) (s : State) : (enterRx t s).dKnown = s.dKnown := (rfl)
@[simp] theorem enterRx_rspStatus (t : Nat) (s : State) : (enterRx t s).rspStatus = s.rspStatus := (rfl)
@[simp] theorem enterRx_rspCsum (t : Nat) (s : State) : (enterRx t s).rspCsum = s.rspCsum := (rfl)
@[simp] theorem enterRx_infoVersion (t : Nat) (s : State) : (enterRx t s).infoVersion = s.infoVersion := (rfl)
@[simp] theorem enterRx_infoMaxpkt (t : Nat) (s : State) : (enterRx t s).infoMaxpkt = s.infoMaxpkt := (rfl)
@[simp] theorem enterRx_infoDevid (t : Nat) (s : State) : (enterRx t s).infoDevid = s.infoDevid := (rfl)
@[simp] theorem enterRx_infoRow (t : Nat) (s : State) : (enterRx t s).infoRow = s.infoRow := (rfl)
@[simp] theorem enterRx_infoLatch (t : Nat) (s : State) : (enterRx t s).infoLatch = s.infoLatch := (rfl)
@[simp] theorem enterRx_infoCfg (t : Nat) (s : State) : (enterRx t s).infoCfg = s.infoCfg := (rfl)
@[simp] theorem enterRx_infoValid (t : Nat) (s : State) : (enterRx t s).infoValid = s.infoValid := (rfl)
@[simp] theorem enterRx_tstate (t : Nat) (s : State) : (enterRx t s).tstate = .rx := (rfl)
@[simp] theorem enterRx_idx (t : Nat) (s : State) : (enterRx t s).idx = s.idx := (rfl)
@[simp] theorem enterRx_timer (t : Nat) (s : State) : (enterRx t s).timer = BitVec.ofNat 13 t := (rfl)
@[simp] theorem enterRx_tres (t : Nat) (s : State) : (enterRx t s).tres = s.tres := (rfl)
@[simp] theorem enterRx_sstate (t : Nat) (s : State) : (enterRx t s).sstate = s.sstate := (rfl)
@[simp] theorem enterRx_failPhase (t : Nat) (s : State) : (enterRx t s).failPhase = s.failPhase := (rfl)
@[simp] theorem enterRx_failCause (t : Nat) (s : State) : (enterRx t s).failCause = s.failCause := (rfl)
@[simp] theorem enterRx_offset (t : Nat) (s : State) : (enterRx t s).offset = s.offset := (rfl)
@[simp] theorem enterRx_progress (t : Nat) (s : State) : (enterRx t s).progress = s.progress := (rfl)
@[simp] theorem enterRx_herr (t : Nat) (s : State) : (enterRx t s).herr = s.herr := (rfl)
@[simp] theorem enterRx_img (t : Nat) (s : State) : (enterRx t s).img = s.img := (rfl)
@[simp] theorem enterRx_pending (t : Nat) (s : State) : (enterRx t s).pending = s.pending := (rfl)
@[simp] theorem enterRx_sent (t : Nat) (s : State) : (enterRx t s).sent = s.sent := (rfl)
@[simp] theorem enterRx_hostData (t : Nat) (s : State) : (enterRx t s).hostData = s.hostData := (rfl)
@[simp] theorem enterRx_params (t : Nat) (s : State) : (enterRx t s).params = s.params := (rfl)

/-! ## enterTxd -/

@[simp] theorem enterTxd_csA (s : State) : (enterTxd s).csA = s.csA := (rfl)
@[simp] theorem enterTxd_csB (s : State) : (enterTxd s).csB = s.csB := (rfl)
@[simp] theorem enterTxd_csH (s : State) : (enterTxd s).csH = s.csH := (rfl)
@[simp] theorem enterTxd_csPh (s : State) : (enterTxd s).csPh = s.csPh := (rfl)
@[simp] theorem enterTxd_op (s : State) : (enterTxd s).op = s.op := (rfl)
@[simp] theorem enterTxd_size (s : State) : (enterTxd s).size = s.size := (rfl)
@[simp] theorem enterTxd_addr (s : State) : (enterTxd s).addr = s.addr := (rfl)
@[simp] theorem enterTxd_wr (s : State) : (enterTxd s).wr = s.wr := (rfl)
@[simp] theorem enterTxd_fb (s : State) : (enterTxd s).fb = s.fb := (rfl)
@[simp] theorem enterTxd_rb (s : State) : (enterTxd s).rb = s.rb := (rfl)
@[simp] theorem enterTxd_rcnt (s : State) : (enterTxd s).rcnt = s.rcnt := (rfl)
@[simp] theorem enterTxd_dOp (s : State) : (enterTxd s).dOp = s.dOp := (rfl)
@[simp] theorem enterTxd_dSize (s : State) : (enterTxd s).dSize = s.dSize := (rfl)
@[simp] theorem enterTxd_dAddr (s : State) : (enterTxd s).dAddr = s.dAddr := (rfl)
@[simp] theorem enterTxd_dWr (s : State) : (enterTxd s).dWr = s.dWr := (rfl)
@[simp] theorem enterTxd_dOk (s : State) : (enterTxd s).dOk = s.dOk := (rfl)
@[simp] theorem enterTxd_dKnown (s : State) : (enterTxd s).dKnown = s.dKnown := (rfl)
@[simp] theorem enterTxd_rspStatus (s : State) : (enterTxd s).rspStatus = s.rspStatus := (rfl)
@[simp] theorem enterTxd_rspCsum (s : State) : (enterTxd s).rspCsum = s.rspCsum := (rfl)
@[simp] theorem enterTxd_infoVersion (s : State) : (enterTxd s).infoVersion = s.infoVersion := (rfl)
@[simp] theorem enterTxd_infoMaxpkt (s : State) : (enterTxd s).infoMaxpkt = s.infoMaxpkt := (rfl)
@[simp] theorem enterTxd_infoDevid (s : State) : (enterTxd s).infoDevid = s.infoDevid := (rfl)
@[simp] theorem enterTxd_infoRow (s : State) : (enterTxd s).infoRow = s.infoRow := (rfl)
@[simp] theorem enterTxd_infoLatch (s : State) : (enterTxd s).infoLatch = s.infoLatch := (rfl)
@[simp] theorem enterTxd_infoCfg (s : State) : (enterTxd s).infoCfg = s.infoCfg := (rfl)
@[simp] theorem enterTxd_infoValid (s : State) : (enterTxd s).infoValid = s.infoValid := (rfl)
@[simp] theorem enterTxd_tstate (s : State) : (enterTxd s).tstate = .txd := (rfl)
@[simp] theorem enterTxd_idx (s : State) : (enterTxd s).idx = 0 := (rfl)
@[simp] theorem enterTxd_timer (s : State) : (enterTxd s).timer = s.timer := (rfl)
@[simp] theorem enterTxd_tres (s : State) : (enterTxd s).tres = s.tres := (rfl)
@[simp] theorem enterTxd_sstate (s : State) : (enterTxd s).sstate = s.sstate := (rfl)
@[simp] theorem enterTxd_failPhase (s : State) : (enterTxd s).failPhase = s.failPhase := (rfl)
@[simp] theorem enterTxd_failCause (s : State) : (enterTxd s).failCause = s.failCause := (rfl)
@[simp] theorem enterTxd_offset (s : State) : (enterTxd s).offset = s.offset := (rfl)
@[simp] theorem enterTxd_progress (s : State) : (enterTxd s).progress = s.progress := (rfl)
@[simp] theorem enterTxd_herr (s : State) : (enterTxd s).herr = s.herr := (rfl)
@[simp] theorem enterTxd_img (s : State) : (enterTxd s).img = s.img := (rfl)
@[simp] theorem enterTxd_pending (s : State) : (enterTxd s).pending = s.pending := (rfl)
@[simp] theorem enterTxd_sent (s : State) : (enterTxd s).sent = s.sent := (rfl)
@[simp] theorem enterTxd_hostData (s : State) : (enterTxd s).hostData = s.hostData := (rfl)
@[simp] theorem enterTxd_params (s : State) : (enterTxd s).params = s.params := (rfl)

/-! ## countDown -/

@[simp] theorem countDown_csA (s : State) : (countDown s).csA = s.csA := (rfl)
@[simp] theorem countDown_csB (s : State) : (countDown s).csB = s.csB := (rfl)
@[simp] theorem countDown_csH (s : State) : (countDown s).csH = s.csH := (rfl)
@[simp] theorem countDown_csPh (s : State) : (countDown s).csPh = s.csPh := (rfl)
@[simp] theorem countDown_op (s : State) : (countDown s).op = s.op := (rfl)
@[simp] theorem countDown_size (s : State) : (countDown s).size = s.size := (rfl)
@[simp] theorem countDown_addr (s : State) : (countDown s).addr = s.addr := (rfl)
@[simp] theorem countDown_wr (s : State) : (countDown s).wr = s.wr := (rfl)
@[simp] theorem countDown_fb (s : State) : (countDown s).fb = s.fb := (rfl)
@[simp] theorem countDown_rb (s : State) : (countDown s).rb = s.rb := (rfl)
@[simp] theorem countDown_rcnt (s : State) : (countDown s).rcnt = s.rcnt := (rfl)
@[simp] theorem countDown_dOp (s : State) : (countDown s).dOp = s.dOp := (rfl)
@[simp] theorem countDown_dSize (s : State) : (countDown s).dSize = s.dSize := (rfl)
@[simp] theorem countDown_dAddr (s : State) : (countDown s).dAddr = s.dAddr := (rfl)
@[simp] theorem countDown_dWr (s : State) : (countDown s).dWr = s.dWr := (rfl)
@[simp] theorem countDown_dOk (s : State) : (countDown s).dOk = s.dOk := (rfl)
@[simp] theorem countDown_dKnown (s : State) : (countDown s).dKnown = s.dKnown := (rfl)
@[simp] theorem countDown_rspStatus (s : State) : (countDown s).rspStatus = s.rspStatus := (rfl)
@[simp] theorem countDown_rspCsum (s : State) : (countDown s).rspCsum = s.rspCsum := (rfl)
@[simp] theorem countDown_infoVersion (s : State) : (countDown s).infoVersion = s.infoVersion := (rfl)
@[simp] theorem countDown_infoMaxpkt (s : State) : (countDown s).infoMaxpkt = s.infoMaxpkt := (rfl)
@[simp] theorem countDown_infoDevid (s : State) : (countDown s).infoDevid = s.infoDevid := (rfl)
@[simp] theorem countDown_infoRow (s : State) : (countDown s).infoRow = s.infoRow := (rfl)
@[simp] theorem countDown_infoLatch (s : State) : (countDown s).infoLatch = s.infoLatch := (rfl)
@[simp] theorem countDown_infoCfg (s : State) : (countDown s).infoCfg = s.infoCfg := (rfl)
@[simp] theorem countDown_infoValid (s : State) : (countDown s).infoValid = s.infoValid := (rfl)
@[simp] theorem countDown_tstate (s : State) : (countDown s).tstate = s.tstate := (rfl)
@[simp] theorem countDown_idx (s : State) : (countDown s).idx = s.idx := (rfl)
@[simp] theorem countDown_timer (s : State) : (countDown s).timer = s.timer - 1 := (rfl)
@[simp] theorem countDown_tres (s : State) : (countDown s).tres = s.tres := (rfl)
@[simp] theorem countDown_sstate (s : State) : (countDown s).sstate = s.sstate := (rfl)
@[simp] theorem countDown_failPhase (s : State) : (countDown s).failPhase = s.failPhase := (rfl)
@[simp] theorem countDown_failCause (s : State) : (countDown s).failCause = s.failCause := (rfl)
@[simp] theorem countDown_offset (s : State) : (countDown s).offset = s.offset := (rfl)
@[simp] theorem countDown_progress (s : State) : (countDown s).progress = s.progress := (rfl)
@[simp] theorem countDown_herr (s : State) : (countDown s).herr = s.herr := (rfl)
@[simp] theorem countDown_img (s : State) : (countDown s).img = s.img := (rfl)
@[simp] theorem countDown_pending (s : State) : (countDown s).pending = s.pending := (rfl)
@[simp] theorem countDown_sent (s : State) : (countDown s).sent = s.sent := (rfl)
@[simp] theorem countDown_hostData (s : State) : (countDown s).hostData = s.hostData := (rfl)
@[simp] theorem countDown_params (s : State) : (countDown s).params = s.params := (rfl)

/-! ## loadAddr -/

@[simp] theorem loadAddr_csA (a : Addr) (s : State) : (loadAddr a s).csA = s.csA := (rfl)
@[simp] theorem loadAddr_csB (a : Addr) (s : State) : (loadAddr a s).csB = s.csB := (rfl)
@[simp] theorem loadAddr_csH (a : Addr) (s : State) : (loadAddr a s).csH = s.csH := (rfl)
@[simp] theorem loadAddr_csPh (a : Addr) (s : State) : (loadAddr a s).csPh = s.csPh := (rfl)
@[simp] theorem loadAddr_op (a : Addr) (s : State) : (loadAddr a s).op = s.op := (rfl)
@[simp] theorem loadAddr_size (a : Addr) (s : State) : (loadAddr a s).size = s.size := (rfl)
@[simp] theorem loadAddr_addr (a : Addr) (s : State) : (loadAddr a s).addr = a := (rfl)
@[simp] theorem loadAddr_wr (a : Addr) (s : State) : (loadAddr a s).wr = s.wr := (rfl)
@[simp] theorem loadAddr_fb (a : Addr) (s : State) : (loadAddr a s).fb = s.fb := (rfl)
@[simp] theorem loadAddr_rb (a : Addr) (s : State) : (loadAddr a s).rb = s.rb := (rfl)
@[simp] theorem loadAddr_rcnt (a : Addr) (s : State) : (loadAddr a s).rcnt = s.rcnt := (rfl)
@[simp] theorem loadAddr_dOp (a : Addr) (s : State) : (loadAddr a s).dOp = s.dOp := (rfl)
@[simp] theorem loadAddr_dSize (a : Addr) (s : State) : (loadAddr a s).dSize = s.dSize := (rfl)
@[simp] theorem loadAddr_dAddr (a : Addr) (s : State) : (loadAddr a s).dAddr = s.dAddr := (rfl)
@[simp] theorem loadAddr_dWr (a : Addr) (s : State) : (loadAddr a s).dWr = s.dWr := (rfl)
@[simp] theorem loadAddr_dOk (a : Addr) (s : State) : (loadAddr a s).dOk = s.dOk := (rfl)
@[simp] theorem loadAddr_dKnown (a : Addr) (s : State) : (loadAddr a s).dKnown = s.dKnown := (rfl)
@[simp] theorem loadAddr_rspStatus (a : Addr) (s : State) : (loadAddr a s).rspStatus = s.rspStatus := (rfl)
@[simp] theorem loadAddr_rspCsum (a : Addr) (s : State) : (loadAddr a s).rspCsum = s.rspCsum := (rfl)
@[simp] theorem loadAddr_infoVersion (a : Addr) (s : State) : (loadAddr a s).infoVersion = s.infoVersion := (rfl)
@[simp] theorem loadAddr_infoMaxpkt (a : Addr) (s : State) : (loadAddr a s).infoMaxpkt = s.infoMaxpkt := (rfl)
@[simp] theorem loadAddr_infoDevid (a : Addr) (s : State) : (loadAddr a s).infoDevid = s.infoDevid := (rfl)
@[simp] theorem loadAddr_infoRow (a : Addr) (s : State) : (loadAddr a s).infoRow = s.infoRow := (rfl)
@[simp] theorem loadAddr_infoLatch (a : Addr) (s : State) : (loadAddr a s).infoLatch = s.infoLatch := (rfl)
@[simp] theorem loadAddr_infoCfg (a : Addr) (s : State) : (loadAddr a s).infoCfg = s.infoCfg := (rfl)
@[simp] theorem loadAddr_infoValid (a : Addr) (s : State) : (loadAddr a s).infoValid = s.infoValid := (rfl)
@[simp] theorem loadAddr_tstate (a : Addr) (s : State) : (loadAddr a s).tstate = s.tstate := (rfl)
@[simp] theorem loadAddr_idx (a : Addr) (s : State) : (loadAddr a s).idx = s.idx := (rfl)
@[simp] theorem loadAddr_timer (a : Addr) (s : State) : (loadAddr a s).timer = s.timer := (rfl)
@[simp] theorem loadAddr_tres (a : Addr) (s : State) : (loadAddr a s).tres = s.tres := (rfl)
@[simp] theorem loadAddr_sstate (a : Addr) (s : State) : (loadAddr a s).sstate = s.sstate := (rfl)
@[simp] theorem loadAddr_failPhase (a : Addr) (s : State) : (loadAddr a s).failPhase = s.failPhase := (rfl)
@[simp] theorem loadAddr_failCause (a : Addr) (s : State) : (loadAddr a s).failCause = s.failCause := (rfl)
@[simp] theorem loadAddr_offset (a : Addr) (s : State) : (loadAddr a s).offset = s.offset := (rfl)
@[simp] theorem loadAddr_progress (a : Addr) (s : State) : (loadAddr a s).progress = s.progress := (rfl)
@[simp] theorem loadAddr_herr (a : Addr) (s : State) : (loadAddr a s).herr = s.herr := (rfl)
@[simp] theorem loadAddr_img (a : Addr) (s : State) : (loadAddr a s).img = s.img := (rfl)
@[simp] theorem loadAddr_pending (a : Addr) (s : State) : (loadAddr a s).pending = s.pending := (rfl)
@[simp] theorem loadAddr_sent (a : Addr) (s : State) : (loadAddr a s).sent = s.sent := (rfl)
@[simp] theorem loadAddr_hostData (a : Addr) (s : State) : (loadAddr a s).hostData = s.hostData := (rfl)
@[simp] theorem loadAddr_params (a : Addr) (s : State) : (loadAddr a s).params = s.params := (rfl)

/-! ## enterPhase -/

@[simp] theorem enterPhase_csA (ss : SState) (s : State) : (enterPhase ss s).csA = s.csA := (rfl)
@[simp] theorem enterPhase_csB (ss : SState) (s : State) : (enterPhase ss s).csB = s.csB := (rfl)
@[simp] theorem enterPhase_csH (ss : SState) (s : State) : (enterPhase ss s).csH = s.csH := (rfl)
@[simp] theorem enterPhase_csPh (ss : SState) (s : State) : (enterPhase ss s).csPh = s.csPh := (rfl)
@[simp] theorem enterPhase_op (ss : SState) (s : State) : (enterPhase ss s).op = s.op := (rfl)
@[simp] theorem enterPhase_size (ss : SState) (s : State) : (enterPhase ss s).size = s.size := (rfl)
@[simp] theorem enterPhase_addr (ss : SState) (s : State) : (enterPhase ss s).addr = s.addr := (rfl)
@[simp] theorem enterPhase_wr (ss : SState) (s : State) : (enterPhase ss s).wr = s.wr := (rfl)
@[simp] theorem enterPhase_fb (ss : SState) (s : State) : (enterPhase ss s).fb = s.fb := (rfl)
@[simp] theorem enterPhase_rb (ss : SState) (s : State) : (enterPhase ss s).rb = s.rb := (rfl)
@[simp] theorem enterPhase_rcnt (ss : SState) (s : State) : (enterPhase ss s).rcnt = s.rcnt := (rfl)
@[simp] theorem enterPhase_dOp (ss : SState) (s : State) : (enterPhase ss s).dOp = s.dOp := (rfl)
@[simp] theorem enterPhase_dSize (ss : SState) (s : State) : (enterPhase ss s).dSize = s.dSize := (rfl)
@[simp] theorem enterPhase_dAddr (ss : SState) (s : State) : (enterPhase ss s).dAddr = s.dAddr := (rfl)
@[simp] theorem enterPhase_dWr (ss : SState) (s : State) : (enterPhase ss s).dWr = s.dWr := (rfl)
@[simp] theorem enterPhase_dOk (ss : SState) (s : State) : (enterPhase ss s).dOk = s.dOk := (rfl)
@[simp] theorem enterPhase_dKnown (ss : SState) (s : State) : (enterPhase ss s).dKnown = s.dKnown := (rfl)
@[simp] theorem enterPhase_rspStatus (ss : SState) (s : State) : (enterPhase ss s).rspStatus = s.rspStatus := (rfl)
@[simp] theorem enterPhase_rspCsum (ss : SState) (s : State) : (enterPhase ss s).rspCsum = s.rspCsum := (rfl)
@[simp] theorem enterPhase_infoVersion (ss : SState) (s : State) : (enterPhase ss s).infoVersion = s.infoVersion := (rfl)
@[simp] theorem enterPhase_infoMaxpkt (ss : SState) (s : State) : (enterPhase ss s).infoMaxpkt = s.infoMaxpkt := (rfl)
@[simp] theorem enterPhase_infoDevid (ss : SState) (s : State) : (enterPhase ss s).infoDevid = s.infoDevid := (rfl)
@[simp] theorem enterPhase_infoRow (ss : SState) (s : State) : (enterPhase ss s).infoRow = s.infoRow := (rfl)
@[simp] theorem enterPhase_infoLatch (ss : SState) (s : State) : (enterPhase ss s).infoLatch = s.infoLatch := (rfl)
@[simp] theorem enterPhase_infoCfg (ss : SState) (s : State) : (enterPhase ss s).infoCfg = s.infoCfg := (rfl)
@[simp] theorem enterPhase_infoValid (ss : SState) (s : State) : (enterPhase ss s).infoValid = s.infoValid := (rfl)
@[simp] theorem enterPhase_tstate (ss : SState) (s : State) : (enterPhase ss s).tstate = s.tstate := (rfl)
@[simp] theorem enterPhase_idx (ss : SState) (s : State) : (enterPhase ss s).idx = s.idx := (rfl)
@[simp] theorem enterPhase_timer (ss : SState) (s : State) : (enterPhase ss s).timer = s.timer := (rfl)
@[simp] theorem enterPhase_tres (ss : SState) (s : State) : (enterPhase ss s).tres = s.tres := (rfl)
@[simp] theorem enterPhase_sstate (ss : SState) (s : State) : (enterPhase ss s).sstate = ss := (rfl)
@[simp] theorem enterPhase_failPhase (ss : SState) (s : State) : (enterPhase ss s).failPhase = s.failPhase := (rfl)
@[simp] theorem enterPhase_failCause (ss : SState) (s : State) : (enterPhase ss s).failCause = s.failCause := (rfl)
@[simp] theorem enterPhase_offset (ss : SState) (s : State) : (enterPhase ss s).offset = s.offset := (rfl)
@[simp] theorem enterPhase_progress (ss : SState) (s : State) : (enterPhase ss s).progress = s.progress := (rfl)
@[simp] theorem enterPhase_herr (ss : SState) (s : State) : (enterPhase ss s).herr = s.herr := (rfl)
@[simp] theorem enterPhase_img (ss : SState) (s : State) : (enterPhase ss s).img = s.img := (rfl)
@[simp] theorem enterPhase_pending (ss : SState) (s : State) : (enterPhase ss s).pending = s.pending := (rfl)
@[simp] theorem enterPhase_sent (ss : SState) (s : State) : (enterPhase ss s).sent = s.sent := (rfl)
@[simp] theorem enterPhase_hostData (ss : SState) (s : State) : (enterPhase ss s).hostData = s.hostData := (rfl)
@[simp] theorem enterPhase_params (ss : SState) (s : State) : (enterPhase ss s).params = s.params := (rfl)

/-! ## setOffset -/

@[simp] theorem setOffset_csA (o : Addr) (s : State) : (setOffset o s).csA = s.csA := (rfl)
@[simp] theorem setOffset_csB (o : Addr) (s : State) : (setOffset o s).csB = s.csB := (rfl)
@[simp] theorem setOffset_csH (o : Addr) (s : State) : (setOffset o s).csH = s.csH := (rfl)
@[simp] theorem setOffset_csPh (o : Addr) (s : State) : (setOffset o s).csPh = s.csPh := (rfl)
@[simp] theorem setOffset_op (o : Addr) (s : State) : (setOffset o s).op = s.op := (rfl)
@[simp] theorem setOffset_size (o : Addr) (s : State) : (setOffset o s).size = s.size := (rfl)
@[simp] theorem setOffset_addr (o : Addr) (s : State) : (setOffset o s).addr = s.addr := (rfl)
@[simp] theorem setOffset_wr (o : Addr) (s : State) : (setOffset o s).wr = s.wr := (rfl)
@[simp] theorem setOffset_fb (o : Addr) (s : State) : (setOffset o s).fb = s.fb := (rfl)
@[simp] theorem setOffset_rb (o : Addr) (s : State) : (setOffset o s).rb = s.rb := (rfl)
@[simp] theorem setOffset_rcnt (o : Addr) (s : State) : (setOffset o s).rcnt = s.rcnt := (rfl)
@[simp] theorem setOffset_dOp (o : Addr) (s : State) : (setOffset o s).dOp = s.dOp := (rfl)
@[simp] theorem setOffset_dSize (o : Addr) (s : State) : (setOffset o s).dSize = s.dSize := (rfl)
@[simp] theorem setOffset_dAddr (o : Addr) (s : State) : (setOffset o s).dAddr = s.dAddr := (rfl)
@[simp] theorem setOffset_dWr (o : Addr) (s : State) : (setOffset o s).dWr = s.dWr := (rfl)
@[simp] theorem setOffset_dOk (o : Addr) (s : State) : (setOffset o s).dOk = s.dOk := (rfl)
@[simp] theorem setOffset_dKnown (o : Addr) (s : State) : (setOffset o s).dKnown = s.dKnown := (rfl)
@[simp] theorem setOffset_rspStatus (o : Addr) (s : State) : (setOffset o s).rspStatus = s.rspStatus := (rfl)
@[simp] theorem setOffset_rspCsum (o : Addr) (s : State) : (setOffset o s).rspCsum = s.rspCsum := (rfl)
@[simp] theorem setOffset_infoVersion (o : Addr) (s : State) : (setOffset o s).infoVersion = s.infoVersion := (rfl)
@[simp] theorem setOffset_infoMaxpkt (o : Addr) (s : State) : (setOffset o s).infoMaxpkt = s.infoMaxpkt := (rfl)
@[simp] theorem setOffset_infoDevid (o : Addr) (s : State) : (setOffset o s).infoDevid = s.infoDevid := (rfl)
@[simp] theorem setOffset_infoRow (o : Addr) (s : State) : (setOffset o s).infoRow = s.infoRow := (rfl)
@[simp] theorem setOffset_infoLatch (o : Addr) (s : State) : (setOffset o s).infoLatch = s.infoLatch := (rfl)
@[simp] theorem setOffset_infoCfg (o : Addr) (s : State) : (setOffset o s).infoCfg = s.infoCfg := (rfl)
@[simp] theorem setOffset_infoValid (o : Addr) (s : State) : (setOffset o s).infoValid = s.infoValid := (rfl)
@[simp] theorem setOffset_tstate (o : Addr) (s : State) : (setOffset o s).tstate = s.tstate := (rfl)
@[simp] theorem setOffset_idx (o : Addr) (s : State) : (setOffset o s).idx = s.idx := (rfl)
@[simp] theorem setOffset_timer (o : Addr) (s : State) : (setOffset o s).timer = s.timer := (rfl)
@[simp] theorem setOffset_tres (o : Addr) (s : State) : (setOffset o s).tres = s.tres := (rfl)
@[simp] theorem setOffset_sstate (o : Addr) (s : State) : (setOffset o s).sstate = s.sstate := (rfl)
@[simp] theorem setOffset_failPhase (o : Addr) (s : State) : (setOffset o s).failPhase = s.failPhase := (rfl)
@[simp] theorem setOffset_failCause (o : Addr) (s : State) : (setOffset o s).failCause = s.failCause := (rfl)
@[simp] theorem setOffset_offset (o : Addr) (s : State) : (setOffset o s).offset = o := (rfl)
@[simp] theorem setOffset_progress (o : Addr) (s : State) : (setOffset o s).progress = s.progress := (rfl)
@[simp] theorem setOffset_herr (o : Addr) (s : State) : (setOffset o s).herr = s.herr := (rfl)
@[simp] theorem setOffset_img (o : Addr) (s : State) : (setOffset o s).img = s.img := (rfl)
@[simp] theorem setOffset_pending (o : Addr) (s : State) : (setOffset o s).pending = s.pending := (rfl)
@[simp] theorem setOffset_sent (o : Addr) (s : State) : (setOffset o s).sent = s.sent := (rfl)
@[simp] theorem setOffset_hostData (o : Addr) (s : State) : (setOffset o s).hostData = s.hostData := (rfl)
@[simp] theorem setOffset_params (o : Addr) (s : State) : (setOffset o s).params = s.params := (rfl)

/-! ## setProgress -/

@[simp] theorem setProgress_csA (p : BitVec 7) (s : State) : (setProgress p s).csA = s.csA := (rfl)
@[simp] theorem setProgress_csB (p : BitVec 7) (s : State) : (setProgress p s).csB = s.csB := (rfl)
@[simp] theorem setProgress_csH (p : BitVec 7) (s : State) : (setProgress p s).csH = s.csH := (rfl)
@[simp] theorem setProgress_csPh (p : BitVec 7) (s : State) : (setProgress p s).csPh = s.csPh := (rfl)
@[simp] theorem setProgress_op (p : BitVec 7) (s : State) : (setProgress p s).op = s.op := (rfl)
@[simp] theorem setProgress_size (p : BitVec 7) (s : State) : (setProgress p s).size = s.size := (rfl)
@[simp] theorem setProgress_addr (p : BitVec 7) (s : State) : (setProgress p s).addr = s.addr := (rfl)
@[simp] theorem setProgress_wr (p : BitVec 7) (s : State) : (setProgress p s).wr = s.wr := (rfl)
@[simp] theorem setProgress_fb (p : BitVec 7) (s : State) : (setProgress p s).fb = s.fb := (rfl)
@[simp] theorem setProgress_rb (p : BitVec 7) (s : State) : (setProgress p s).rb = s.rb := (rfl)
@[simp] theorem setProgress_rcnt (p : BitVec 7) (s : State) : (setProgress p s).rcnt = s.rcnt := (rfl)
@[simp] theorem setProgress_dOp (p : BitVec 7) (s : State) : (setProgress p s).dOp = s.dOp := (rfl)
@[simp] theorem setProgress_dSize (p : BitVec 7) (s : State) : (setProgress p s).dSize = s.dSize := (rfl)
@[simp] theorem setProgress_dAddr (p : BitVec 7) (s : State) : (setProgress p s).dAddr = s.dAddr := (rfl)
@[simp] theorem setProgress_dWr (p : BitVec 7) (s : State) : (setProgress p s).dWr = s.dWr := (rfl)
@[simp] theorem setProgress_dOk (p : BitVec 7) (s : State) : (setProgress p s).dOk = s.dOk := (rfl)
@[simp] theorem setProgress_dKnown (p : BitVec 7) (s : State) : (setProgress p s).dKnown = s.dKnown := (rfl)
@[simp] theorem setProgress_rspStatus (p : BitVec 7) (s : State) : (setProgress p s).rspStatus = s.rspStatus := (rfl)
@[simp] theorem setProgress_rspCsum (p : BitVec 7) (s : State) : (setProgress p s).rspCsum = s.rspCsum := (rfl)
@[simp] theorem setProgress_infoVersion (p : BitVec 7) (s : State) : (setProgress p s).infoVersion = s.infoVersion := (rfl)
@[simp] theorem setProgress_infoMaxpkt (p : BitVec 7) (s : State) : (setProgress p s).infoMaxpkt = s.infoMaxpkt := (rfl)
@[simp] theorem setProgress_infoDevid (p : BitVec 7) (s : State) : (setProgress p s).infoDevid = s.infoDevid := (rfl)
@[simp] theorem setProgress_infoRow (p : BitVec 7) (s : State) : (setProgress p s).infoRow = s.infoRow := (rfl)
@[simp] theorem setProgress_infoLatch (p : BitVec 7) (s : State) : (setProgress p s).infoLatch = s.infoLatch := (rfl)
@[simp] theorem setProgress_infoCfg (p : BitVec 7) (s : State) : (setProgress p s).infoCfg = s.infoCfg := (rfl)
@[simp] theorem setProgress_infoValid (p : BitVec 7) (s : State) : (setProgress p s).infoValid = s.infoValid := (rfl)
@[simp] theorem setProgress_tstate (p : BitVec 7) (s : State) : (setProgress p s).tstate = s.tstate := (rfl)
@[simp] theorem setProgress_idx (p : BitVec 7) (s : State) : (setProgress p s).idx = s.idx := (rfl)
@[simp] theorem setProgress_timer (p : BitVec 7) (s : State) : (setProgress p s).timer = s.timer := (rfl)
@[simp] theorem setProgress_tres (p : BitVec 7) (s : State) : (setProgress p s).tres = s.tres := (rfl)
@[simp] theorem setProgress_sstate (p : BitVec 7) (s : State) : (setProgress p s).sstate = s.sstate := (rfl)
@[simp] theorem setProgress_failPhase (p : BitVec 7) (s : State) : (setProgress p s).failPhase = s.failPhase := (rfl)
@[simp] theorem setProgress_failCause (p : BitVec 7) (s : State) : (setProgress p s).failCause = s.failCause := (rfl)
@[simp] theorem setProgress_offset (p : BitVec 7) (s : State) : (setProgress p s).offset = s.offset := (rfl)
@[simp] theorem setProgress_progress (p : BitVec 7) (s : State) : (setProgress p s).progress = p := (rfl)
@[simp] theorem setProgress_herr (p : BitVec 7) (s : State) : (setProgress p s).herr = s.herr := (rfl)
@[simp] theorem setProgress_img (p : BitVec 7) (s : State) : (setProgress p s).img = s.img := (rfl)
@[simp] theorem setProgress_pending (p : BitVec 7) (s : State) : (setProgress p s).pending = s.pending := (rfl)
@[simp] theorem setProgress_sent (p : BitVec 7) (s : State) : (setProgress p s).sent = s.sent := (rfl)
@[simp] theorem setProgress_hostData (p : BitVec 7) (s : State) : (setProgress p s).hostData = s.hostData := (rfl)
@[simp] theorem setProgress_params (p : BitVec 7) (s : State) : (setProgress p s).params = s.params := (rfl)

/-! ## clearFailure -/

@[simp] theorem clearFailure_csA (s : State) : (clearFailure s).csA = s.csA := (rfl)
@[simp] theorem clearFailure_csB (s : State) : (clearFailure s).csB = s.csB := (rfl)
@[simp] theorem clearFailure_csH (s : State) : (clearFailure s).csH = s.csH := (rfl)
@[simp] theorem clearFailure_csPh (s : State) : (clearFailure s).csPh = s.csPh := (rfl)
@[simp] theorem clearFailure_op (s : State) : (clearFailure s).op = s.op := (rfl)
@[simp] theorem clearFailure_size (s : State) : (clearFailure s).size = s.size := (rfl)
@[simp] theorem clearFailure_addr (s : State) : (clearFailure s).addr = s.addr := (rfl)
@[simp] theorem clearFailure_wr (s : State) : (clearFailure s).wr = s.wr := (rfl)
@[simp] theorem clearFailure_fb (s : State) : (clearFailure s).fb = s.fb := (rfl)
@[simp] theorem clearFailure_rb (s : State) : (clearFailure s).rb = s.rb := (rfl)
@[simp] theorem clearFailure_rcnt (s : State) : (clearFailure s).rcnt = s.rcnt := (rfl)
@[simp] theorem clearFailure_dOp (s : State) : (clearFailure s).dOp = s.dOp := (rfl)
@[simp] theorem clearFailure_dSize (s : State) : (clearFailure s).dSize = s.dSize := (rfl)
@[simp] theorem clearFailure_dAddr (s : State) : (clearFailure s).dAddr = s.dAddr := (rfl)
@[simp] theorem clearFailure_dWr (s : State) : (clearFailure s).dWr = s.dWr := (rfl)
@[simp] theorem clearFailure_dOk (s : State) : (clearFailure s).dOk = s.dOk := (rfl)
@[simp] theorem clearFailure_dKnown (s : State) : (clearFailure s).dKnown = s.dKnown := (rfl)
@[simp] theorem clearFailure_rspStatus (s : State) : (clearFailure s).rspStatus = s.rspStatus := (rfl)
@[simp] theorem clearFailure_rspCsum (s : State) : (clearFailure s).rspCsum = s.rspCsum := (rfl)
@[simp] theorem clearFailure_infoVersion (s : State) : (clearFailure s).infoVersion = s.infoVersion := (rfl)
@[simp] theorem clearFailure_infoMaxpkt (s : State) : (clearFailure s).infoMaxpkt = s.infoMaxpkt := (rfl)
@[simp] theorem clearFailure_infoDevid (s : State) : (clearFailure s).infoDevid = s.infoDevid := (rfl)
@[simp] theorem clearFailure_infoRow (s : State) : (clearFailure s).infoRow = s.infoRow := (rfl)
@[simp] theorem clearFailure_infoLatch (s : State) : (clearFailure s).infoLatch = s.infoLatch := (rfl)
@[simp] theorem clearFailure_infoCfg (s : State) : (clearFailure s).infoCfg = s.infoCfg := (rfl)
@[simp] theorem clearFailure_infoValid (s : State) : (clearFailure s).infoValid = s.infoValid := (rfl)
@[simp] theorem clearFailure_tstate (s : State) : (clearFailure s).tstate = s.tstate := (rfl)
@[simp] theorem clearFailure_idx (s : State) : (clearFailure s).idx = s.idx := (rfl)
@[simp] theorem clearFailure_timer (s : State) : (clearFailure s).timer = s.timer := (rfl)
@[simp] theorem clearFailure_tres (s : State) : (clearFailure s).tres = s.tres := (rfl)
@[simp] theorem clearFailure_sstate (s : State) : (clearFailure s).sstate = s.sstate := (rfl)
@[simp] theorem clearFailure_failPhase (s : State) : (clearFailure s).failPhase = .noPhase := (rfl)
@[simp] theorem clearFailure_failCause (s : State) : (clearFailure s).failCause = .eNone := (rfl)
@[simp] theorem clearFailure_offset (s : State) : (clearFailure s).offset = s.offset := (rfl)
@[simp] theorem clearFailure_progress (s : State) : (clearFailure s).progress = s.progress := (rfl)
@[simp] theorem clearFailure_herr (s : State) : (clearFailure s).herr = s.herr := (rfl)
@[simp] theorem clearFailure_img (s : State) : (clearFailure s).img = s.img := (rfl)
@[simp] theorem clearFailure_pending (s : State) : (clearFailure s).pending = s.pending := (rfl)
@[simp] theorem clearFailure_sent (s : State) : (clearFailure s).sent = s.sent := (rfl)
@[simp] theorem clearFailure_hostData (s : State) : (clearFailure s).hostData = s.hostData := (rfl)
@[simp] theorem clearFailure_params (s : State) : (clearFailure s).params = s.params := (rfl)

/-! ## loadOp -/

@[simp] theorem loadOp_csA (o : Byte) (s : State) : (loadOp o s).csA = s.csA := (rfl)
@[simp] theorem loadOp_csB (o : Byte) (s : State) : (loadOp o s).csB = s.csB := (rfl)
@[simp] theorem loadOp_csH (o : Byte) (s : State) : (loadOp o s).csH = s.csH := (rfl)
@[simp] theorem loadOp_csPh (o : Byte) (s : State) : (loadOp o s).csPh = s.csPh := (rfl)
@[simp] theorem loadOp_op (o : Byte) (s : State) : (loadOp o s).op = o := (rfl)
@[simp] theorem loadOp_size (o : Byte) (s : State) : (loadOp o s).size = s.size := (rfl)
@[simp] theorem loadOp_addr (o : Byte) (s : State) : (loadOp o s).addr = s.addr := (rfl)
@[simp] theorem loadOp_wr (o : Byte) (s : State) : (loadOp o s).wr = s.wr := (rfl)
@[simp] theorem loadOp_fb (o : Byte) (s : State) : (loadOp o s).fb = s.fb := (rfl)
@[simp] theorem loadOp_rb (o : Byte) (s : State) : (loadOp o s).rb = s.rb := (rfl)
@[simp] theorem loadOp_rcnt (o : Byte) (s : State) : (loadOp o s).rcnt = s.rcnt := (rfl)
@[simp] theorem loadOp_dOp (o : Byte) (s : State) : (loadOp o s).dOp = s.dOp := (rfl)
@[simp] theorem loadOp_dSize (o : Byte) (s : State) : (loadOp o s).dSize = s.dSize := (rfl)
@[simp] theorem loadOp_dAddr (o : Byte) (s : State) : (loadOp o s).dAddr = s.dAddr := (rfl)
@[simp] theorem loadOp_dWr (o : Byte) (s : State) : (loadOp o s).dWr = s.dWr := (rfl)
@[simp] theorem loadOp_dOk (o : Byte) (s : State) : (loadOp o s).dOk = s.dOk := (rfl)
@[simp] theorem loadOp_dKnown (o : Byte) (s : State) : (loadOp o s).dKnown = s.dKnown := (rfl)
@[simp] theorem loadOp_rspStatus (o : Byte) (s : State) : (loadOp o s).rspStatus = s.rspStatus := (rfl)
@[simp] theorem loadOp_rspCsum (o : Byte) (s : State) : (loadOp o s).rspCsum = s.rspCsum := (rfl)
@[simp] theorem loadOp_infoVersion (o : Byte) (s : State) : (loadOp o s).infoVersion = s.infoVersion := (rfl)
@[simp] theorem loadOp_infoMaxpkt (o : Byte) (s : State) : (loadOp o s).infoMaxpkt = s.infoMaxpkt := (rfl)
@[simp] theorem loadOp_infoDevid (o : Byte) (s : State) : (loadOp o s).infoDevid = s.infoDevid := (rfl)
@[simp] theorem loadOp_infoRow (o : Byte) (s : State) : (loadOp o s).infoRow = s.infoRow := (rfl)
@[simp] theorem loadOp_infoLatch (o : Byte) (s : State) : (loadOp o s).infoLatch = s.infoLatch := (rfl)
@[simp] theorem loadOp_infoCfg (o : Byte) (s : State) : (loadOp o s).infoCfg = s.infoCfg := (rfl)
@[simp] theorem loadOp_infoValid (o : Byte) (s : State) : (loadOp o s).infoValid = s.infoValid := (rfl)
@[simp] theorem loadOp_tstate (o : Byte) (s : State) : (loadOp o s).tstate = s.tstate := (rfl)
@[simp] theorem loadOp_idx (o : Byte) (s : State) : (loadOp o s).idx = s.idx := (rfl)
@[simp] theorem loadOp_timer (o : Byte) (s : State) : (loadOp o s).timer = s.timer := (rfl)
@[simp] theorem loadOp_tres (o : Byte) (s : State) : (loadOp o s).tres = s.tres := (rfl)
@[simp] theorem loadOp_sstate (o : Byte) (s : State) : (loadOp o s).sstate = s.sstate := (rfl)
@[simp] theorem loadOp_failPhase (o : Byte) (s : State) : (loadOp o s).failPhase = s.failPhase := (rfl)
@[simp] theorem loadOp_failCause (o : Byte) (s : State) : (loadOp o s).failCause = s.failCause := (rfl)
@[simp] theorem loadOp_offset (o : Byte) (s : State) : (loadOp o s).offset = s.offset := (rfl)
@[simp] theorem loadOp_progress (o : Byte) (s : State) : (loadOp o s).progress = s.progress := (rfl)
@[simp] theorem loadOp_herr (o : Byte) (s : State) : (loadOp o s).herr = s.herr := (rfl)
@[simp] theorem loadOp_img (o : Byte) (s : State) : (loadOp o s).img = s.img := (rfl)
@[simp] theorem loadOp_pending (o : Byte) (s : State) : (loadOp o s).pending = s.pending := (rfl)
@[simp] theorem loadOp_sent (o : Byte) (s : State) : (loadOp o s).sent = s.sent := (rfl)
@[simp] theorem loadOp_hostData (o : Byte) (s : State) : (loadOp o s).hostData = s.hostData := (rfl)
@[simp] theorem loadOp_params (o : Byte) (s : State) : (loadOp o s).params = s.params := (rfl)

/-! ## loadSize -/

@[simp] theorem loadSize_csA (n : Half) (s : State) : (loadSize n s).csA = s.csA := (rfl)
@[simp] theorem loadSize_csB (n : Half) (s : State) : (loadSize n s).csB = s.csB := (rfl)
@[simp] theorem loadSize_csH (n : Half) (s : State) : (loadSize n s).csH = s.csH := (rfl)
@[simp] theorem loadSize_csPh (n : Half) (s : State) : (loadSize n s).csPh = s.csPh := (rfl)
@[simp] theorem loadSize_op (n : Half) (s : State) : (loadSize n s).op = s.op := (rfl)
@[simp] theorem loadSize_size (n : Half) (s : State) : (loadSize n s).size = n := (rfl)
@[simp] theorem loadSize_addr (n : Half) (s : State) : (loadSize n s).addr = s.addr := (rfl)
@[simp] theorem loadSize_wr (n : Half) (s : State) : (loadSize n s).wr = s.wr := (rfl)
@[simp] theorem loadSize_fb (n : Half) (s : State) : (loadSize n s).fb = s.fb := (rfl)
@[simp] theorem loadSize_rb (n : Half) (s : State) : (loadSize n s).rb = s.rb := (rfl)
@[simp] theorem loadSize_rcnt (n : Half) (s : State) : (loadSize n s).rcnt = s.rcnt := (rfl)
@[simp] theorem loadSize_dOp (n : Half) (s : State) : (loadSize n s).dOp = s.dOp := (rfl)
@[simp] theorem loadSize_dSize (n : Half) (s : State) : (loadSize n s).dSize = s.dSize := (rfl)
@[simp] theorem loadSize_dAddr (n : Half) (s : State) : (loadSize n s).dAddr = s.dAddr := (rfl)
@[simp] theorem loadSize_dWr (n : Half) (s : State) : (loadSize n s).dWr = s.dWr := (rfl)
@[simp] theorem loadSize_dOk (n : Half) (s : State) : (loadSize n s).dOk = s.dOk := (rfl)
@[simp] theorem loadSize_dKnown (n : Half) (s : State) : (loadSize n s).dKnown = s.dKnown := (rfl)
@[simp] theorem loadSize_rspStatus (n : Half) (s : State) : (loadSize n s).rspStatus = s.rspStatus := (rfl)
@[simp] theorem loadSize_rspCsum (n : Half) (s : State) : (loadSize n s).rspCsum = s.rspCsum := (rfl)
@[simp] theorem loadSize_infoVersion (n : Half) (s : State) : (loadSize n s).infoVersion = s.infoVersion := (rfl)
@[simp] theorem loadSize_infoMaxpkt (n : Half) (s : State) : (loadSize n s).infoMaxpkt = s.infoMaxpkt := (rfl)
@[simp] theorem loadSize_infoDevid (n : Half) (s : State) : (loadSize n s).infoDevid = s.infoDevid := (rfl)
@[simp] theorem loadSize_infoRow (n : Half) (s : State) : (loadSize n s).infoRow = s.infoRow := (rfl)
@[simp] theorem loadSize_infoLatch (n : Half) (s : State) : (loadSize n s).infoLatch = s.infoLatch := (rfl)
@[simp] theorem loadSize_infoCfg (n : Half) (s : State) : (loadSize n s).infoCfg = s.infoCfg := (rfl)
@[simp] theorem loadSize_infoValid (n : Half) (s : State) : (loadSize n s).infoValid = s.infoValid := (rfl)
@[simp] theorem loadSize_tstate (n : Half) (s : State) : (loadSize n s).tstate = s.tstate := (rfl)
@[simp] theorem loadSize_idx (n : Half) (s : State) : (loadSize n s).idx = s.idx := (rfl)
@[simp] theorem loadSize_timer (n : Half) (s : State) : (loadSize n s).timer = s.timer := (rfl)
@[simp] theorem loadSize_tres (n : Half) (s : State) : (loadSize n s).tres = s.tres := (rfl)
@[simp] theorem loadSize_sstate (n : Half) (s : State) : (loadSize n s).sstate = s.sstate := (rfl)
@[simp] theorem loadSize_failPhase (n : Half) (s : State) : (loadSize n s).failPhase = s.failPhase := (rfl)
@[simp] theorem loadSize_failCause (n : Half) (s : State) : (loadSize n s).failCause = s.failCause := (rfl)
@[simp] theorem loadSize_offset (n : Half) (s : State) : (loadSize n s).offset = s.offset := (rfl)
@[simp] theorem loadSize_progress (n : Half) (s : State) : (loadSize n s).progress = s.progress := (rfl)
@[simp] theorem loadSize_herr (n : Half) (s : State) : (loadSize n s).herr = s.herr := (rfl)
@[simp] theorem loadSize_img (n : Half) (s : State) : (loadSize n s).img = s.img := (rfl)
@[simp] theorem loadSize_pending (n : Half) (s : State) : (loadSize n s).pending = s.pending := (rfl)
@[simp] theorem loadSize_sent (n : Half) (s : State) : (loadSize n s).sent = s.sent := (rfl)
@[simp] theorem loadSize_hostData (n : Half) (s : State) : (loadSize n s).hostData = s.hostData := (rfl)
@[simp] theorem loadSize_params (n : Half) (s : State) : (loadSize n s).params = s.params := (rfl)

/-! ## loadWr -/

@[simp] theorem loadWr_csA (w : Bool) (s : State) : (loadWr w s).csA = s.csA := (rfl)
@[simp] theorem loadWr_csB (w : Bool) (s : State) : (loadWr w s).csB = s.csB := (rfl)
@[simp] theorem loadWr_csH (w : Bool) (s : State) : (loadWr w s).csH = s.csH := (rfl)
@[simp] theorem loadWr_csPh (w : Bool) (s : State) : (loadWr w s).csPh = s.csPh := (rfl)
@[simp] theorem loadWr_op (w : Bool) (s : State) : (loadWr w s).op = s.op := (rfl)
@[simp] theorem loadWr_size (w : Bool) (s : State) : (loadWr w s).size = s.size := (rfl)
@[simp] theorem loadWr_addr (w : Bool) (s : State) : (loadWr w s).addr = s.addr := (rfl)
@[simp] theorem loadWr_wr (w : Bool) (s : State) : (loadWr w s).wr = w := (rfl)
@[simp] theorem loadWr_fb (w : Bool) (s : State) : (loadWr w s).fb = s.fb := (rfl)
@[simp] theorem loadWr_rb (w : Bool) (s : State) : (loadWr w s).rb = s.rb := (rfl)
@[simp] theorem loadWr_rcnt (w : Bool) (s : State) : (loadWr w s).rcnt = s.rcnt := (rfl)
@[simp] theorem loadWr_dOp (w : Bool) (s : State) : (loadWr w s).dOp = s.dOp := (rfl)
@[simp] theorem loadWr_dSize (w : Bool) (s : State) : (loadWr w s).dSize = s.dSize := (rfl)
@[simp] theorem loadWr_dAddr (w : Bool) (s : State) : (loadWr w s).dAddr = s.dAddr := (rfl)
@[simp] theorem loadWr_dWr (w : Bool) (s : State) : (loadWr w s).dWr = s.dWr := (rfl)
@[simp] theorem loadWr_dOk (w : Bool) (s : State) : (loadWr w s).dOk = s.dOk := (rfl)
@[simp] theorem loadWr_dKnown (w : Bool) (s : State) : (loadWr w s).dKnown = s.dKnown := (rfl)
@[simp] theorem loadWr_rspStatus (w : Bool) (s : State) : (loadWr w s).rspStatus = s.rspStatus := (rfl)
@[simp] theorem loadWr_rspCsum (w : Bool) (s : State) : (loadWr w s).rspCsum = s.rspCsum := (rfl)
@[simp] theorem loadWr_infoVersion (w : Bool) (s : State) : (loadWr w s).infoVersion = s.infoVersion := (rfl)
@[simp] theorem loadWr_infoMaxpkt (w : Bool) (s : State) : (loadWr w s).infoMaxpkt = s.infoMaxpkt := (rfl)
@[simp] theorem loadWr_infoDevid (w : Bool) (s : State) : (loadWr w s).infoDevid = s.infoDevid := (rfl)
@[simp] theorem loadWr_infoRow (w : Bool) (s : State) : (loadWr w s).infoRow = s.infoRow := (rfl)
@[simp] theorem loadWr_infoLatch (w : Bool) (s : State) : (loadWr w s).infoLatch = s.infoLatch := (rfl)
@[simp] theorem loadWr_infoCfg (w : Bool) (s : State) : (loadWr w s).infoCfg = s.infoCfg := (rfl)
@[simp] theorem loadWr_infoValid (w : Bool) (s : State) : (loadWr w s).infoValid = s.infoValid := (rfl)
@[simp] theorem loadWr_tstate (w : Bool) (s : State) : (loadWr w s).tstate = s.tstate := (rfl)
@[simp] theorem loadWr_idx (w : Bool) (s : State) : (loadWr w s).idx = s.idx := (rfl)
@[simp] theorem loadWr_timer (w : Bool) (s : State) : (loadWr w s).timer = s.timer := (rfl)
@[simp] theorem loadWr_tres (w : Bool) (s : State) : (loadWr w s).tres = s.tres := (rfl)
@[simp] theorem loadWr_sstate (w : Bool) (s : State) : (loadWr w s).sstate = s.sstate := (rfl)
@[simp] theorem loadWr_failPhase (w : Bool) (s : State) : (loadWr w s).failPhase = s.failPhase := (rfl)
@[simp] theorem loadWr_failCause (w : Bool) (s : State) : (loadWr w s).failCause = s.failCause := (rfl)
@[simp] theorem loadWr_offset (w : Bool) (s : State) : (loadWr w s).offset = s.offset := (rfl)
@[simp] theorem loadWr_progress (w : Bool) (s : State) : (loadWr w s).progress = s.progress := (rfl)
@[simp] theorem loadWr_herr (w : Bool) (s : State) : (loadWr w s).herr = s.herr := (rfl)
@[simp] theorem loadWr_img (w : Bool) (s : State) : (loadWr w s).img = s.img := (rfl)
@[simp] theorem loadWr_pending (w : Bool) (s : State) : (loadWr w s).pending = s.pending := (rfl)
@[simp] theorem loadWr_sent (w : Bool) (s : State) : (loadWr w s).sent = s.sent := (rfl)
@[simp] theorem loadWr_hostData (w : Bool) (s : State) : (loadWr w s).hostData = s.hostData := (rfl)
@[simp] theorem loadWr_params (w : Bool) (s : State) : (loadWr w s).params = s.params := (rfl)

/-! ## loadFb -/

@[simp] theorem loadFb_csA (k : Nat) (b : Byte) (s : State) : (loadFb k b s).csA = s.csA := (rfl)
@[simp] theorem loadFb_csB (k : Nat) (b : Byte) (s : State) : (loadFb k b s).csB = s.csB := (rfl)
@[simp] theorem loadFb_csH (k : Nat) (b : Byte) (s : State) : (loadFb k b s).csH = s.csH := (rfl)
@[simp] theorem loadFb_csPh (k : Nat) (b : Byte) (s : State) : (loadFb k b s).csPh = s.csPh := (rfl)
@[simp] theorem loadFb_op (k : Nat) (b : Byte) (s : State) : (loadFb k b s).op = s.op := (rfl)
@[simp] theorem loadFb_size (k : Nat) (b : Byte) (s : State) : (loadFb k b s).size = s.size := (rfl)
@[simp] theorem loadFb_addr (k : Nat) (b : Byte) (s : State) : (loadFb k b s).addr = s.addr := (rfl)
@[simp] theorem loadFb_wr (k : Nat) (b : Byte) (s : State) : (loadFb k b s).wr = s.wr := (rfl)
@[simp] theorem loadFb_fb (k : Nat) (b : Byte) (s : State) : (loadFb k b s).fb = s.fb.setIfInBounds k b := (rfl)
@[simp] theorem loadFb_rb (k : Nat) (b : Byte) (s : State) : (loadFb k b s).rb = s.rb := (rfl)
@[simp] theorem loadFb_rcnt (k : Nat) (b : Byte) (s : State) : (loadFb k b s).rcnt = s.rcnt := (rfl)
@[simp] theorem loadFb_dOp (k : Nat) (b : Byte) (s : State) : (loadFb k b s).dOp = s.dOp := (rfl)
@[simp] theorem loadFb_dSize (k : Nat) (b : Byte) (s : State) : (loadFb k b s).dSize = s.dSize := (rfl)
@[simp] theorem loadFb_dAddr (k : Nat) (b : Byte) (s : State) : (loadFb k b s).dAddr = s.dAddr := (rfl)
@[simp] theorem loadFb_dWr (k : Nat) (b : Byte) (s : State) : (loadFb k b s).dWr = s.dWr := (rfl)
@[simp] theorem loadFb_dOk (k : Nat) (b : Byte) (s : State) : (loadFb k b s).dOk = s.dOk := (rfl)
@[simp] theorem loadFb_dKnown (k : Nat) (b : Byte) (s : State) : (loadFb k b s).dKnown = s.dKnown := (rfl)
@[simp] theorem loadFb_rspStatus (k : Nat) (b : Byte) (s : State) : (loadFb k b s).rspStatus = s.rspStatus := (rfl)
@[simp] theorem loadFb_rspCsum (k : Nat) (b : Byte) (s : State) : (loadFb k b s).rspCsum = s.rspCsum := (rfl)
@[simp] theorem loadFb_infoVersion (k : Nat) (b : Byte) (s : State) : (loadFb k b s).infoVersion = s.infoVersion := (rfl)
@[simp] theorem loadFb_infoMaxpkt (k : Nat) (b : Byte) (s : State) : (loadFb k b s).infoMaxpkt = s.infoMaxpkt := (rfl)
@[simp] theorem loadFb_infoDevid (k : Nat) (b : Byte) (s : State) : (loadFb k b s).infoDevid = s.infoDevid := (rfl)
@[simp] theorem loadFb_infoRow (k : Nat) (b : Byte) (s : State) : (loadFb k b s).infoRow = s.infoRow := (rfl)
@[simp] theorem loadFb_infoLatch (k : Nat) (b : Byte) (s : State) : (loadFb k b s).infoLatch = s.infoLatch := (rfl)
@[simp] theorem loadFb_infoCfg (k : Nat) (b : Byte) (s : State) : (loadFb k b s).infoCfg = s.infoCfg := (rfl)
@[simp] theorem loadFb_infoValid (k : Nat) (b : Byte) (s : State) : (loadFb k b s).infoValid = s.infoValid := (rfl)
@[simp] theorem loadFb_tstate (k : Nat) (b : Byte) (s : State) : (loadFb k b s).tstate = s.tstate := (rfl)
@[simp] theorem loadFb_idx (k : Nat) (b : Byte) (s : State) : (loadFb k b s).idx = s.idx := (rfl)
@[simp] theorem loadFb_timer (k : Nat) (b : Byte) (s : State) : (loadFb k b s).timer = s.timer := (rfl)
@[simp] theorem loadFb_tres (k : Nat) (b : Byte) (s : State) : (loadFb k b s).tres = s.tres := (rfl)
@[simp] theorem loadFb_sstate (k : Nat) (b : Byte) (s : State) : (loadFb k b s).sstate = s.sstate := (rfl)
@[simp] theorem loadFb_failPhase (k : Nat) (b : Byte) (s : State) : (loadFb k b s).failPhase = s.failPhase := (rfl)
@[simp] theorem loadFb_failCause (k : Nat) (b : Byte) (s : State) : (loadFb k b s).failCause = s.failCause := (rfl)
@[simp] theorem loadFb_offset (k : Nat) (b : Byte) (s : State) : (loadFb k b s).offset = s.offset := (rfl)
@[simp] theorem loadFb_progress (k : Nat) (b : Byte) (s : State) : (loadFb k b s).progress = s.progress := (rfl)
@[simp] theorem loadFb_herr (k : Nat) (b : Byte) (s : State) : (loadFb k b s).herr = s.herr := (rfl)
@[simp] theorem loadFb_img (k : Nat) (b : Byte) (s : State) : (loadFb k b s).img = s.img := (rfl)
@[simp] theorem loadFb_pending (k : Nat) (b : Byte) (s : State) : (loadFb k b s).pending = s.pending := (rfl)
@[simp] theorem loadFb_sent (k : Nat) (b : Byte) (s : State) : (loadFb k b s).sent = s.sent := (rfl)
@[simp] theorem loadFb_hostData (k : Nat) (b : Byte) (s : State) : (loadFb k b s).hostData = s.hostData := (rfl)
@[simp] theorem loadFb_params (k : Nat) (b : Byte) (s : State) : (loadFb k b s).params = s.params := (rfl)

/-! ## returnData -/

@[simp] theorem returnData_csA (v : Word) (s : State) : (returnData v s).csA = s.csA := (rfl)
@[simp] theorem returnData_csB (v : Word) (s : State) : (returnData v s).csB = s.csB := (rfl)
@[simp] theorem returnData_csH (v : Word) (s : State) : (returnData v s).csH = s.csH := (rfl)
@[simp] theorem returnData_csPh (v : Word) (s : State) : (returnData v s).csPh = s.csPh := (rfl)
@[simp] theorem returnData_op (v : Word) (s : State) : (returnData v s).op = s.op := (rfl)
@[simp] theorem returnData_size (v : Word) (s : State) : (returnData v s).size = s.size := (rfl)
@[simp] theorem returnData_addr (v : Word) (s : State) : (returnData v s).addr = s.addr := (rfl)
@[simp] theorem returnData_wr (v : Word) (s : State) : (returnData v s).wr = s.wr := (rfl)
@[simp] theorem returnData_fb (v : Word) (s : State) : (returnData v s).fb = s.fb := (rfl)
@[simp] theorem returnData_rb (v : Word) (s : State) : (returnData v s).rb = s.rb := (rfl)
@[simp] theorem returnData_rcnt (v : Word) (s : State) : (returnData v s).rcnt = s.rcnt := (rfl)
@[simp] theorem returnData_dOp (v : Word) (s : State) : (returnData v s).dOp = s.dOp := (rfl)
@[simp] theorem returnData_dSize (v : Word) (s : State) : (returnData v s).dSize = s.dSize := (rfl)
@[simp] theorem returnData_dAddr (v : Word) (s : State) : (returnData v s).dAddr = s.dAddr := (rfl)
@[simp] theorem returnData_dWr (v : Word) (s : State) : (returnData v s).dWr = s.dWr := (rfl)
@[simp] theorem returnData_dOk (v : Word) (s : State) : (returnData v s).dOk = s.dOk := (rfl)
@[simp] theorem returnData_dKnown (v : Word) (s : State) : (returnData v s).dKnown = s.dKnown := (rfl)
@[simp] theorem returnData_rspStatus (v : Word) (s : State) : (returnData v s).rspStatus = s.rspStatus := (rfl)
@[simp] theorem returnData_rspCsum (v : Word) (s : State) : (returnData v s).rspCsum = s.rspCsum := (rfl)
@[simp] theorem returnData_infoVersion (v : Word) (s : State) : (returnData v s).infoVersion = s.infoVersion := (rfl)
@[simp] theorem returnData_infoMaxpkt (v : Word) (s : State) : (returnData v s).infoMaxpkt = s.infoMaxpkt := (rfl)
@[simp] theorem returnData_infoDevid (v : Word) (s : State) : (returnData v s).infoDevid = s.infoDevid := (rfl)
@[simp] theorem returnData_infoRow (v : Word) (s : State) : (returnData v s).infoRow = s.infoRow := (rfl)
@[simp] theorem returnData_infoLatch (v : Word) (s : State) : (returnData v s).infoLatch = s.infoLatch := (rfl)
@[simp] theorem returnData_infoCfg (v : Word) (s : State) : (returnData v s).infoCfg = s.infoCfg := (rfl)
@[simp] theorem returnData_infoValid (v : Word) (s : State) : (returnData v s).infoValid = s.infoValid := (rfl)
@[simp] theorem returnData_tstate (v : Word) (s : State) : (returnData v s).tstate = s.tstate := (rfl)
@[simp] theorem returnData_idx (v : Word) (s : State) : (returnData v s).idx = s.idx := (rfl)
@[simp] theorem returnData_timer (v : Word) (s : State) : (returnData v s).timer = s.timer := (rfl)
@[simp] theorem returnData_tres (v : Word) (s : State) : (returnData v s).tres = s.tres := (rfl)
@[simp] theorem returnData_sstate (v : Word) (s : State) : (returnData v s).sstate = s.sstate := (rfl)
@[simp] theorem returnData_failPhase (v : Word) (s : State) : (returnData v s).failPhase = s.failPhase := (rfl)
@[simp] theorem returnData_failCause (v : Word) (s : State) : (returnData v s).failCause = s.failCause := (rfl)
@[simp] theorem returnData_offset (v : Word) (s : State) : (returnData v s).offset = s.offset := (rfl)
@[simp] theorem returnData_progress (v : Word) (s : State) : (returnData v s).progress = s.progress := (rfl)
@[simp] theorem returnData_herr (v : Word) (s : State) : (returnData v s).herr = s.herr := (rfl)
@[simp] theorem returnData_img (v : Word) (s : State) : (returnData v s).img = s.img := (rfl)
@[simp] theorem returnData_pending (v : Word) (s : State) : (returnData v s).pending = s.pending := (rfl)
@[simp] theorem returnData_sent (v : Word) (s : State) : (returnData v s).sent = s.sent := (rfl)
@[simp] theorem returnData_hostData (v : Word) (s : State) : (returnData v s).hostData = v := (rfl)
@[simp] theorem returnData_params (v : Word) (s : State) : (returnData v s).params = s.params := (rfl)

/-! ## resetBlock -/

@[simp] theorem resetBlock_csA (s : State) : (resetBlock s).csA = State.reset.csA := (rfl)
@[simp] theorem resetBlock_csB (s : State) : (resetBlock s).csB = State.reset.csB := (rfl)
@[simp] theorem resetBlock_csH (s : State) : (resetBlock s).csH = State.reset.csH := (rfl)
@[simp] theorem resetBlock_csPh (s : State) : (resetBlock s).csPh = State.reset.csPh := (rfl)
@[simp] theorem resetBlock_op (s : State) : (resetBlock s).op = State.reset.op := (rfl)
@[simp] theorem resetBlock_size (s : State) : (resetBlock s).size = State.reset.size := (rfl)
@[simp] theorem resetBlock_addr (s : State) : (resetBlock s).addr = State.reset.addr := (rfl)
@[simp] theorem resetBlock_wr (s : State) : (resetBlock s).wr = State.reset.wr := (rfl)
@[simp] theorem resetBlock_fb (s : State) : (resetBlock s).fb = State.reset.fb := (rfl)
@[simp] theorem resetBlock_rb (s : State) : (resetBlock s).rb = State.reset.rb := (rfl)
@[simp] theorem resetBlock_rcnt (s : State) : (resetBlock s).rcnt = State.reset.rcnt := (rfl)
@[simp] theorem resetBlock_dOp (s : State) : (resetBlock s).dOp = State.reset.dOp := (rfl)
@[simp] theorem resetBlock_dSize (s : State) : (resetBlock s).dSize = State.reset.dSize := (rfl)
@[simp] theorem resetBlock_dAddr (s : State) : (resetBlock s).dAddr = State.reset.dAddr := (rfl)
@[simp] theorem resetBlock_dWr (s : State) : (resetBlock s).dWr = State.reset.dWr := (rfl)
@[simp] theorem resetBlock_dOk (s : State) : (resetBlock s).dOk = State.reset.dOk := (rfl)
@[simp] theorem resetBlock_dKnown (s : State) : (resetBlock s).dKnown = State.reset.dKnown := (rfl)
@[simp] theorem resetBlock_rspStatus (s : State) : (resetBlock s).rspStatus = State.reset.rspStatus := (rfl)
@[simp] theorem resetBlock_rspCsum (s : State) : (resetBlock s).rspCsum = State.reset.rspCsum := (rfl)
@[simp] theorem resetBlock_infoVersion (s : State) : (resetBlock s).infoVersion = State.reset.infoVersion := (rfl)
@[simp] theorem resetBlock_infoMaxpkt (s : State) : (resetBlock s).infoMaxpkt = State.reset.infoMaxpkt := (rfl)
@[simp] theorem resetBlock_infoDevid (s : State) : (resetBlock s).infoDevid = State.reset.infoDevid := (rfl)
@[simp] theorem resetBlock_infoRow (s : State) : (resetBlock s).infoRow = State.reset.infoRow := (rfl)
@[simp] theorem resetBlock_infoLatch (s : State) : (resetBlock s).infoLatch = State.reset.infoLatch := (rfl)
@[simp] theorem resetBlock_infoCfg (s : State) : (resetBlock s).infoCfg = State.reset.infoCfg := (rfl)
@[simp] theorem resetBlock_infoValid (s : State) : (resetBlock s).infoValid = State.reset.infoValid := (rfl)
@[simp] theorem resetBlock_tstate (s : State) : (resetBlock s).tstate = State.reset.tstate := (rfl)
@[simp] theorem resetBlock_idx (s : State) : (resetBlock s).idx = State.reset.idx := (rfl)
@[simp] theorem resetBlock_timer (s : State) : (resetBlock s).timer = State.reset.timer := (rfl)
@[simp] theorem resetBlock_tres (s : State) : (resetBlock s).tres = State.reset.tres := (rfl)
@[simp] theorem resetBlock_sstate (s : State) : (resetBlock s).sstate = State.reset.sstate := (rfl)
@[simp] theorem resetBlock_failPhase (s : State) : (resetBlock s).failPhase = State.reset.failPhase := (rfl)
@[simp] theorem resetBlock_failCause (s : State) : (resetBlock s).failCause = State.reset.failCause := (rfl)
@[simp] theorem resetBlock_offset (s : State) : (resetBlock s).offset = State.reset.offset := (rfl)
@[simp] theorem resetBlock_progress (s : State) : (resetBlock s).progress = State.reset.progress := (rfl)
@[simp] theorem resetBlock_herr (s : State) : (resetBlock s).herr = State.reset.herr := (rfl)
@[simp] theorem resetBlock_img (s : State) : (resetBlock s).img = s.img := (rfl)
@[simp] theorem resetBlock_pending (s : State) : (resetBlock s).pending = s.pending := (rfl)
@[simp] theorem resetBlock_sent (s : State) : (resetBlock s).sent = s.sent := (rfl)
@[simp] theorem resetBlock_hostData (s : State) : (resetBlock s).hostData = s.hostData := (rfl)
@[simp] theorem resetBlock_params (s : State) : (resetBlock s).params = s.params := (rfl)

end Sys2Proof.Machine
end

