-- ==== Sys2Proof/Laws/Ops.lean ====
section
/-! SUPPORT. What the shared operations of Machine/Ops.lean and Machine/Operands.lean do: the memory laws, the canonical
form, and the inversion of sequencing. -/

namespace Sys2Proof.Machine

/-! ## The named constants, whose numerals are the normal form in which the laws and the claims are stated -/

@[simp] theorem opGetVersion_eq : Config.opGetVersion = 0x00 := (rfl)
@[simp] theorem opFlashRead_eq : Config.opFlashRead = 0x01 := (rfl)
@[simp] theorem opFlashWrite_eq : Config.opFlashWrite = 0x02 := (rfl)
@[simp] theorem opFlashErase_eq : Config.opFlashErase = 0x03 := (rfl)
@[simp] theorem opConfigRead_eq : Config.opConfigRead = 0x06 := (rfl)
@[simp] theorem opConfigWrite_eq : Config.opConfigWrite = 0x07 := (rfl)
@[simp] theorem opChecksum_eq : Config.opChecksum = 0x08 := (rfl)
@[simp] theorem opReset_eq : Config.opReset = 0x09 := (rfl)
@[simp] theorem offVersion_eq : Config.offVersion = 10 := (rfl)
@[simp] theorem offMaxPkt_eq : Config.offMaxPkt = 12 := (rfl)
@[simp] theorem offDevId_eq : Config.offDevId = 16 := (rfl)
@[simp] theorem offRow_eq : Config.offRow = 20 := (rfl)
@[simp] theorem offLatch_eq : Config.offLatch = 21 := (rfl)
@[simp] theorem offCfg_eq : Config.offCfg = 22 := (rfl)
@[simp] theorem offStatus_eq : Config.offStatus = 10 := (rfl)
@[simp] theorem offCsum_eq : Config.offCsum = 10 := (rfl)

/-! ## Sequencing -/

@[simp] theorem andThen_next (s : State) (f : State → Result) : andThen (.next s) f = f s := rfl

theorem andThen_eq_next {r : Result} {f : State → Result} {t : State} (h : andThen r f = .next t) :
    ∃ s, r = .next s ∧ f s = .next t := by
  cases r with
  | next s => exact ⟨s, rfl, h⟩
  | fault e => cases h
  | refused e => cases h

/-! ## The image memory -/

theorem cellsFrom_mono {lo hi : Nat} {m : Memory} (h : cellsFrom hi m = true) (hl : lo ≤ hi) :
    cellsFrom lo m = true := by
  cases m with
  | nil => rfl
  | cons c rest =>
    simp only [cellsFrom, Bool.and_eq_true, decide_eq_true_eq] at h ⊢
    exact ⟨⟨⟨by omega, h.1.1.2⟩, h.1.2⟩, h.2⟩

/-- Below the least listed address every byte reads as the fill. -/
theorem cellRead_below {lo : Nat} {m : Memory} (h : cellsFrom lo m = true) {a : Nat} (ha : a < lo) :
    cellRead m a = Config.imgFill := by
  induction m generalizing lo with
  | nil => rfl
  | cons c rest ih =>
    simp only [cellsFrom, Bool.and_eq_true, decide_eq_true_eq] at h
    rw [cellRead, if_neg (by omega)]
    exact ih h.2 (by omega)

/-- A write puts its byte at its address. -/
theorem cellRead_cellWrite_same {lo : Nat} {m : Memory} (h : cellsFrom lo m = true) (a : Nat) (b : Byte) :
    cellRead (cellWrite m a b) a = b := by
  induction m generalizing lo with
  | nil =>
    by_cases hb : b = Config.imgFill
    · simp [cellWrite, cellRead, hb]
    · simp [cellWrite, cellRead, hb]
  | cons c rest ih =>
    obtain ⟨k, v⟩ := c
    simp only [cellsFrom, Bool.and_eq_true, decide_eq_true_eq] at h
    rw [cellWrite]
    split
    · rw [cellRead, if_neg (by omega)]
      exact ih h.2
    · split
      · split
        · next hk hb => rw [cellRead_below h.2 (by omega), hb]
        · simp [cellRead]
      · split
        · next hb => rw [cellRead, if_neg (by omega), cellRead_below h.2 (by omega), hb]
        · simp [cellRead]

/-- A write leaves every other address alone. -/
theorem cellRead_cellWrite_other {m : Memory} {a c : Nat} (b : Byte) (hc : c ≠ a) :
    cellRead (cellWrite m a b) c = cellRead m c := by
  induction m with
  | nil =>
    by_cases hb : b = Config.imgFill
    · simp [cellWrite, hb]
    · simp [cellWrite, cellRead, hb, hc.symm]
  | cons x rest ih =>
    obtain ⟨k, v⟩ := x
    rw [cellWrite]
    split
    · simp only [cellRead, ih]
    · split
      · next hk =>
        split
        · rw [cellRead, if_neg (by omega)]
        · rw [cellRead, if_neg (by omega), cellRead, if_neg (by omega)]
      · split
        · rfl
        · rw [cellRead, if_neg (by omega)]

theorem cellsFrom_cellWrite {lo a : Nat} {m : Memory} (b : Byte) (h : cellsFrom lo m = true) (hl : lo ≤ a)
    (ha : a < Config.imgCap) : cellsFrom lo (cellWrite m a b) = true := by
  induction m generalizing lo with
  | nil =>
    by_cases hb : b = Config.imgFill
    · simp [cellWrite, hb, cellsFrom]
    · simp [cellWrite, hb, cellsFrom, hl, ha]
  | cons c rest ih =>
    obtain ⟨k, v⟩ := c
    have h0 := h
    simp only [cellsFrom, Bool.and_eq_true, decide_eq_true_eq] at h
    rw [cellWrite]
    split
    · simp only [cellsFrom, Bool.and_eq_true, decide_eq_true_eq]
      exact ⟨h.1, ih h.2 (by omega)⟩
    · split
      · next hk =>
        split
        · exact cellsFrom_mono h.2 (by omega)
        · next hb =>
          simp only [cellsFrom, Bool.and_eq_true, decide_eq_true_eq]
          exact ⟨⟨⟨hl, ha⟩, hb⟩, by rw [← hk]; exact h.2⟩
      · split
        · exact h0
        · next hb =>
          simp only [cellsFrom, Bool.and_eq_true, decide_eq_true_eq]
          exact ⟨⟨⟨hl, ha⟩, hb⟩, ⟨⟨by omega, h.1.1.2⟩, h.1.2⟩, h.2⟩

/-- The one memory operation keeps the canonical form. -/
theorem wf_cellWrite {a : Nat} {m : Memory} (b : Byte) (h : Memory.wf m = true) (ha : a < Config.imgCap) :
    Memory.wf (cellWrite m a b) = true := cellsFrom_cellWrite b h (Nat.zero_le a) ha

@[simp] theorem cellRange_length (m : Memory) (a n : Nat) : (cellRange m a n).length = n := by
  induction n generalizing a with
  | zero => rfl
  | succ n ih => simp [cellRange, ih]

/-- A range is its bytes, each read by itself. -/
theorem cellRange_eq_imageBytes (m : Memory) (a n : Nat) : cellRange m a n = imageBytes m a n := by
  induction n generalizing a with
  | zero => rfl
  | succ n ih =>
    rw [cellRange, ih, imageBytes, imageBytes, List.range_succ_eq_map, List.map_cons, List.map_map]
    congr 1
    exact List.map_congr_left fun k _ => by simp only [Function.comp_apply]; congr 1; omega

/-! ## The engine's tables -/

theorem supported_iff (op : Byte) :
    supported op = true ↔ op = 0x00 ∨ op = 0x02 ∨ op = 0x03 ∨ op = 0x08 ∨ op = 0x09 := by
  simp only [supported, Bool.or_eq_true, beq_iff_eq]
  tauto

/-- An opcode with a receive wait is one of four, and its tables are defined. -/
theorem timeoutTicks_eq_some {op : Byte} {t : Nat} (h : timeoutTicks op = some t) :
    (op = 0x00 ∧ t = 1000 ∧ respLen op = some 26 ∧ respFormat op = some .version) ∨
    (op = 0x02 ∧ t = 1000 ∧ respLen op = some 11 ∧ respFormat op = some .status) ∨
    (op = 0x03 ∧ t = 5000 ∧ respLen op = some 11 ∧ respFormat op = some .status) ∨
    (op = 0x08 ∧ t = 1000 ∧ respLen op = some 12 ∧ respFormat op = some .csum) := by
  unfold timeoutTicks at h
  split at h
  · subst_vars; simp_all [respLen, respFormat, Config.tShort, Config.verRespLen]
  · split at h
    · subst_vars; simp_all [respLen, respFormat, Config.tShort, Config.statusRespLen]
    · split at h
      · subst_vars; simp_all [respLen, respFormat, Config.tErase, Config.statusRespLen]
      · split at h
        · subst_vars; simp_all [respLen, respFormat, Config.tShort, Config.csumRespLen]
        · cases h

end Sys2Proof.Machine
end

