-- ==== Sys2Proof/Laws/Checksum.lean ====
section
/-! SUPPORT. What the checksum engine's operations do: they write CS_A, CS_B, CS_H and CS_PH and nothing else. -/

namespace Sys2Proof.Machine

@[simp] theorem csPushAll_nil (s : State) : csPushAll [] s = s := rfl

@[simp] theorem csPushAll_cons (b : Byte) (bs : List Byte) (s : State) :
    csPushAll (b :: bs) s = csPushAll bs (csPushByte s b) := rfl

theorem csPushAll_append (xs ys : List Byte) (s : State) :
    csPushAll (xs ++ ys) s = csPushAll ys (csPushAll xs s) := List.foldl_append

/-- The first byte of a pair waits in CS_H. -/
theorem csPushByte_first {s : State} (h : s.csPh = false) (v : Byte) :
    csPushByte s v = { s with csH := v, csPh := true } := by simp [csPushByte, h]

/-- The second byte of a pair completes it. -/
theorem csPushByte_second {s : State} (h : s.csPh = true) (v : Byte) :
    csPushByte s v = { s with
      csA := (addPair s.csA s.csB s.csH v).1, csB := (addPair s.csA s.csB s.csH v).2, csPh := false } := by
  simp [csPushByte, h]

/-- Each push turns the phase over. -/
theorem csPushByte_csPh (s : State) (v : Byte) : (csPushByte s v).csPh = !s.csPh := by
  cases h : s.csPh with
  | false => rw [csPushByte_first h]; rfl
  | true => rw [csPushByte_second h]; rfl

/-- A push writes the engine's four registers only. -/
theorem csPushByte_frame (s : State) (v : Byte) :
    csPushByte s v = { s with
      csA := (csPushByte s v).csA, csB := (csPushByte s v).csB, csH := (csPushByte s v).csH,
      csPh := (csPushByte s v).csPh } := by
  cases h : s.csPh with
  | false => rw [csPushByte_first h]
  | true => rw [csPushByte_second h]

/-- So do any number of pushes. -/
theorem csPushAll_frame (bs : List Byte) (s : State) :
    csPushAll bs s = { s with
      csA := (csPushAll bs s).csA, csB := (csPushAll bs s).csB, csH := (csPushAll bs s).csH,
      csPh := (csPushAll bs s).csPh } := by
  induction bs generalizing s with
  | nil => rfl
  | cons b bs ih =>
    rw [csPushAll_cons, ih]
    rw [csPushByte_frame s b]

/-- A state with the engine's registers of another: what `csPushAll_frame` leaves to look at. -/
theorem csPushAll_keeps {α : Type} (f : State → α)
    (hf : ∀ (s : State) a b h p, f { s with csA := a, csB := b, csH := h, csPh := p } = f s) (bs : List Byte) (s : State) :
    f (csPushAll bs s) = f s := by rw [csPushAll_frame, hf]

theorem localChecksum_keeps {α : Type} (f : State → α)
    (hf : ∀ (s : State) a b h p, f { s with csA := a, csB := b, csH := h, csPh := p } = f s) (s : State) :
    f (localChecksum s) = f s := by
  rw [localChecksum, csPushAll_keeps f hf]
  exact hf s 0 0 0 false

end Sys2Proof.Machine
end

