-- ==== Sys2Proof/Laws/Sequencer.lean ====
section
/-! SUPPORT. What starting and ending a transaction can do. -/

namespace Sys2Proof.Machine

/-- The spec's `complete(res)` with a result other than E_NONE is `abortTxn`: the sequencer only fails (R202; log 15). -/
theorem complete_of_failure {res : Cause} (h : res ≠ .eNone) (s : State) :
    complete res s = .next (abortTxn res s) := by
  unfold complete abortTxn
  cases hs : s.sstate <;>
    simp [sessionActive, seqAdvance, hs, seqQuery, seqErase, seqWrite, seqVerify, seqReset, phaseOf, h]

/-- The end of a transaction outside a session. -/
theorem complete_of_idle {s : State} (h : sessionActive s.sstate = false) (res : Cause) :
    complete res s = .next (endTxn res s) := by simp [complete, h]

theorem complete_of_active {s : State} (h : sessionActive s.sstate = true) (res : Cause) :
    complete res s = seqAdvance res (endTxn res s) := by simp [complete, h]

/-- The three ways `start_txn()` goes (R145). -/
theorem startTxn_cases (s : State) :
    (supported s.op = false ∧ startTxn s = abortTxn .eUnsup s) ∨
    (s.op = 0x02 ∧ inImage s.addr.toNat s.size.toNat = false ∧ startTxn s = abortTxn .eRange s) ∨
    (supported s.op = true ∧ (s.op = 0x02 → inImage s.addr.toNat s.size.toNat = true) ∧ startTxn s = launch s) := by
  rw [startTxn]
  simp only [opFlashWrite_eq]
  by_cases h1 : supported s.op = true
  · by_cases h2 : s.op = 0x02 ∧ inImage s.addr.toNat s.size.toNat = false
    · exact .inr (.inl ⟨h2.1, h2.2, by rw [if_neg (by simp [h1]), if_pos h2]⟩)
    · refine .inr (.inr ⟨h1, fun ho => ?_, by rw [if_neg (by simp [h1]), if_neg h2]⟩)
      simpa [ho] using h2
  · simp only [Bool.not_eq_true] at h1
    exact .inl ⟨h1, by simp [h1]⟩

/-- A supported opcode whose range test passes starts sending. -/
theorem startTxn_launch {s : State} (h : supported s.op = true)
    (hr : s.op = 0x02 → inImage s.addr.toNat s.size.toNat = true) : startTxn s = launch s := by
  rcases startTxn_cases s with ⟨h1, -⟩ | ⟨h1, h2, -⟩ | ⟨-, -, h3⟩
  · rw [h] at h1; cases h1
  · rw [hr h1] at h2; cases h2
  · exact h3

/-- The fields that no transaction and no phase of a session writes: the D_ registers and HERR (R217), what stands at
the boundary, and the parameter. -/
abbrev SameAround (s t : State) : Prop :=
  t.pending = s.pending ∧ t.sent = s.sent ∧ t.hostData = s.hostData ∧ t.params = s.params ∧ t.herr = s.herr ∧
  t.dOp = s.dOp ∧ t.dSize = s.dSize ∧ t.dAddr = s.dAddr ∧ t.dWr = s.dWr ∧ t.dOk = s.dOk ∧ t.dKnown = s.dKnown

theorem SameAround.refl (s : State) : SameAround s s := ⟨rfl, rfl, rfl, rfl, rfl, rfl, rfl, rfl, rfl, rfl, rfl⟩

theorem SameAround.trans {s t u : State} (h : SameAround s t) (k : SameAround t u) : SameAround s u := by
  obtain ⟨h1, h2, h3, h4, h5, h6, h7, h8, h9, h10, h11⟩ := h
  obtain ⟨k1, k2, k3, k4, k5, k6, k7, k8, k9, k10, k11⟩ := k
  exact ⟨k1.trans h1, k2.trans h2, k3.trans h3, k4.trans h4, k5.trans h5, k6.trans h6, k7.trans h7, k8.trans h8,
    k9.trans h9, k10.trans h10, k11.trans h11⟩

theorem abortTxn_around (res : Cause) (s : State) : SameAround s (abortTxn res s) := by
  unfold abortTxn
  split <;> exact SameAround.refl s

theorem abortTxn_img (res : Cause) (s : State) : (abortTxn res s).img = s.img := by
  unfold abortTxn
  split <;> rfl

theorem startTxn_around (s : State) : SameAround s (startTxn s) := by
  rcases startTxn_cases s with ⟨-, h⟩ | ⟨-, -, h⟩ | ⟨-, -, h⟩ <;> rw [h]
  · exact abortTxn_around _ s
  · exact abortTxn_around _ s
  · exact SameAround.refl s

theorem startTxn_img (s : State) : (startTxn s).img = s.img := by
  rcases startTxn_cases s with ⟨-, h⟩ | ⟨-, -, h⟩ | ⟨-, -, h⟩ <;> rw [h]
  · exact abortTxn_img _ s
  · exact abortTxn_img _ s
  · rfl

theorem issue_around (op : Byte) (size : Half) (addr : Addr) (s : State) : SameAround s (issue op size addr s) :=
  startTxn_around (loadOperands op size addr s)

theorem issue_img (op : Byte) (size : Half) (addr : Addr) (s : State) : (issue op size addr s).img = s.img :=
  startTxn_img (loadOperands op size addr s)

theorem localChecksum_around (s : State) : SameAround s (localChecksum s) := by
  refine ⟨?_, ?_, ?_, ?_, ?_, ?_, ?_, ?_, ?_, ?_, ?_⟩ <;> exact localChecksum_keeps _ (fun _ _ _ _ _ => rfl) s

theorem localChecksum_img (s : State) : (localChecksum s).img = s.img :=
  localChecksum_keeps (·.img) (fun _ _ _ _ _ => rfl) s

theorem eraseIssue_around (s : State) : SameAround s (eraseIssue s) := by
  unfold eraseIssue
  split
  · simp [SameAround]
  · split
    · simp [SameAround]
    · exact SameAround.trans (by simp [SameAround]) (issue_around _ _ _ (enterPhase .erase s))

theorem eraseIssue_img (s : State) : (eraseIssue s).img = s.img := by
  unfold eraseIssue
  split
  · simp
  · split
    · simp
    · rw [issue_img]; simp

/-- The session's state when the first page is issued (R205). -/
def firstPage (s : State) : State :=
  enterPhase .write (setProgress 0 (setOffset (BitVec.ofNat 24 Config.winStart)
    (memWrite (Config.winEnd - 1) Config.sentinel s)))

/-- What follows a page that was written (R207). -/
def afterPage (s : State) : State :=
  if (nextPage s).offset.toNat < Config.winEnd then startTxn (loadAddr (nextPage s).offset (nextPage s))
  else issueVerify (enterPhase .verify (setOffset (BitVec.ofNat 24 Config.winStart) (nextPage s)))

theorem afterPage_around (s : State) : SameAround s (afterPage s) := by
  unfold afterPage issueVerify
  split
  · exact SameAround.trans (by simp [SameAround]) (startTxn_around (loadAddr (nextPage s).offset (nextPage s)))
  · exact SameAround.trans (by simp [SameAround])
      (issue_around _ _ _ (enterPhase .verify (setOffset (BitVec.ofNat 24 Config.winStart) (nextPage s))))

theorem afterPage_img (s : State) : (afterPage s).img = s.img := by
  unfold afterPage issueVerify
  split
  · rw [startTxn_img]; simp
  · rw [issue_img]; simp

theorem nextWindow_around (s : State) : SameAround s (nextWindow s) := by
  unfold nextWindow issueVerify
  split
  · exact SameAround.trans (by simp [SameAround]) (issue_around _ _ _ (setOffset (s.offset + s.size.setWidth 24) s))
  · exact SameAround.trans (by simp [SameAround])
      (issue_around _ _ _ (enterPhase .reset (setOffset (s.offset + s.size.setWidth 24) s)))

theorem nextWindow_img (s : State) : (nextWindow s).img = s.img := by
  unfold nextWindow issueVerify
  split
  · rw [issue_img]; simp
  · rw [issue_img]; simp

/-- The ways a transaction with a good end goes on: nothing outside a session, the phase's own next move in one. -/
theorem complete_good_cases {s t : State} (h : complete .eNone s = .next t) :
    (sessionActive s.sstate = false ∧ t = endTxn .eNone s) ∨
    (s.sstate = .query ∧ t = eraseIssue (endTxn .eNone s)) ∨
    (s.sstate = .erase ∧ t = issuePage (firstPage (endTxn .eNone s))) ∨
    (s.sstate = .write ∧ t = afterPage (endTxn .eNone s)) ∨
    (s.sstate = .verify ∧ inImage s.offset.toNat s.size.toNat = true ∧
      csValue (localChecksum (endTxn .eNone s)) ≠ (localChecksum (endTxn .eNone s)).rspCsum ∧
      t = fail .verify .eCsum (localChecksum (endTxn .eNone s))) ∨
    (s.sstate = .verify ∧ inImage s.offset.toNat s.size.toNat = true ∧
      csValue (localChecksum (endTxn .eNone s)) = (localChecksum (endTxn .eNone s)).rspCsum ∧
      t = nextWindow (localChecksum (endTxn .eNone s))) ∨
    (s.sstate = .reset ∧ t = enterPhase .done (endTxn .eNone s)) := by
  cases hs : s.sstate with
  | idle => exact .inl ⟨rfl, by simpa [complete, hs, sessionActive] using h.symm⟩
  | done => exact .inl ⟨rfl, by simpa [complete, hs, sessionActive] using h.symm⟩
  | failed => exact .inl ⟨rfl, by simpa [complete, hs, sessionActive] using h.symm⟩
  | query =>
    exact .inr (.inl ⟨rfl, by simpa [complete, hs, sessionActive, seqAdvance, seqQuery] using h.symm⟩)
  | erase =>
    exact .inr (.inr (.inl ⟨rfl, by
      simpa [complete, hs, sessionActive, seqAdvance, seqErase, firstPage] using h.symm⟩))
  | write =>
    refine .inr (.inr (.inr (.inl ⟨rfl, ?_⟩)))
    rw [complete_of_active (by rw [hs]; rfl), seqAdvance, endTxn_sstate, hs] at h
    exact (Host.Outcome.next.inj h).symm
  | reset =>
    exact .inr (.inr (.inr (.inr (.inr (.inr ⟨rfl, by
      simpa [complete, hs, sessionActive, seqAdvance, seqReset] using h.symm⟩)))))
  | verify =>
    rw [complete_of_active (by rw [hs]; rfl), seqAdvance, endTxn_sstate, hs] at h
    simp only [seqVerify, ne_eq, not_true_eq_false, if_false, endTxn_offset, endTxn_size] at h
    split at h
    · cases h
    · next hi =>
      split at h
      · next hc => exact .inr (.inr (.inr (.inr (.inl ⟨rfl, by simpa using hi, hc, (Host.Outcome.next.inj h).symm⟩))))
      · next hc =>
        exact .inr (.inr (.inr (.inr (.inr (.inl
          ⟨rfl, by simpa using hi, by simpa using hc, (Host.Outcome.next.inj h).symm⟩)))))

/-- The end of a transaction writes none of those fields. -/
theorem complete_around {res : Cause} {s t : State} (h : complete res s = .next t) : SameAround s t := by
  by_cases hr : res = .eNone
  · subst hr
    have he : SameAround s (endTxn .eNone s) := by simp [SameAround]
    rcases complete_good_cases h with ⟨-, rfl⟩ | ⟨-, rfl⟩ | ⟨-, rfl⟩ | ⟨-, rfl⟩ | ⟨-, -, -, rfl⟩ | ⟨-, -, -, rfl⟩ | ⟨-, rfl⟩
    · exact he
    · exact he.trans (eraseIssue_around _)
    · exact SameAround.trans (by simp [SameAround, firstPage]) (issue_around _ _ _ (firstPage (endTxn .eNone s)))
    · exact he.trans (afterPage_around _)
    · exact he.trans (SameAround.trans (localChecksum_around _) (by simp [SameAround]))
    · exact he.trans (SameAround.trans (localChecksum_around _) (nextWindow_around _))
    · simp [SameAround]
  · rw [complete_of_failure hr] at h
    rw [← Host.Outcome.next.inj h]
    exact abortTxn_around res s

/-- IMG changes only at the good end of the erase (20_memory.md R52). -/
theorem complete_img {res : Cause} {s t : State} (h : complete res s = .next t) :
    t.img = s.img ∨ (s.sstate = .erase ∧ res = .eNone ∧
      t.img = cellWrite s.img (Config.winEnd - 1) Config.sentinel) := by
  by_cases hr : res = .eNone
  · subst hr
    rcases complete_good_cases h with ⟨-, rfl⟩ | ⟨-, rfl⟩ | ⟨hs, rfl⟩ | ⟨-, rfl⟩ | ⟨-, -, -, rfl⟩ | ⟨-, -, -, rfl⟩ | ⟨-, rfl⟩
    · simp
    · exact .inl (by rw [eraseIssue_img, endTxn_img])
    · exact .inr ⟨hs, rfl, by rw [issuePage, issue_img]; simp [firstPage]⟩
    · exact .inl (by rw [afterPage_img, endTxn_img])
    · exact .inl (by rw [fail_img, localChecksum_img, endTxn_img])
    · exact .inl (by rw [nextWindow_img, localChecksum_img, endTxn_img])
    · simp
  · rw [complete_of_failure hr] at h
    rw [← Host.Outcome.next.inj h]
    exact .inl (abortTxn_img res s)

end Sys2Proof.Machine
end

