-- ==== Sys2Proof/Laws/Transaction.lean ====
section
/-! SUPPORT. What the transaction engine's events can do, said once: if the rule of an event answers a next state, then
one of these cases holds. -/

namespace Sys2Proof.Machine

theorem txDone_cases {s t : State} (h : txDone s = .next t) :
    (respLen s.op = some 0 ∧ complete .eNone s = .next t) ∨
    (∃ n k, respLen s.op = some (n + 1) ∧ timeoutTicks s.op = some k ∧
      t = enterRx k s) := by
  unfold txDone at h
  cases hl : respLen s.op with
  | none => simp [hl] at h
  | some n =>
    cases n with
    | zero => exact .inl ⟨rfl, by simpa [hl] using h⟩
    | succ n =>
      cases ht : timeoutTicks s.op with
      | none => simp [hl, ht] at h
      | some k => exact .inr ⟨n, k, rfl, rfl, by simpa [hl, ht] using h.symm⟩

/-- `TxAccept`: the offered byte joins the output, and then the index, the payload or the end of sending. -/
theorem txAccept_cases {s t : State} (h : txAccept s = .next t) :
    (∃ b, s.tstate = .txf ∧ txByte s = some b ∧ afterFrameByte (acceptByte b s) = .next t) ∨
    (∃ b, s.tstate = .txd ∧ txByte s = some b ∧ afterPayloadByte (acceptByte b s) = .next t) := by
  unfold txAccept at h
  cases hs : s.tstate with
  | idle => simp [hs] at h
  | rx => simp [hs] at h
  | txf =>
    cases hb : txByte s with
    | none => simp [hs, hb] at h
    | some b => exact .inl ⟨b, rfl, rfl, by simpa [hs, hb] using h⟩
  | txd =>
    cases hb : txByte s with
    | none => simp [hs, hb] at h
    | some b => exact .inr ⟨b, rfl, rfl, by simpa [hs, hb] using h⟩

theorem afterFrameByte_cases {s t : State} (h : afterFrameByte s = .next t) :
    (s.idx.toNat ≠ Config.frameLen ∧ t = s) ∨
    (s.idx.toNat = Config.frameLen ∧ s.op = 0x02 ∧ s.size ≠ 0 ∧ t = enterTxd s) ∨
    (s.idx.toNat = Config.frameLen ∧ (s.op ≠ 0x02 ∨ s.size = 0) ∧ txDone s = .next t) := by
  unfold afterFrameByte at h
  split at h
  · next h1 =>
    split at h
    · next h2 => exact .inr (.inl ⟨h1, h2.1, h2.2, by simpa using h.symm⟩)
    · next h2 => exact .inr (.inr ⟨h1, by tauto, h⟩)
  · next h1 => exact .inl ⟨h1, by simpa using h.symm⟩

theorem afterPayloadByte_cases {s t : State} (h : afterPayloadByte s = .next t) :
    (s.idx ≠ s.size ∧ t = s) ∨ (s.idx = s.size ∧ txDone s = .next t) := by
  unfold afterPayloadByte at h
  split at h
  · next h1 => exact .inr ⟨h1, h⟩
  · next h1 => exact .inl ⟨h1, by simpa using h.symm⟩

/-- `TxFail` and `RxError` end the transaction. -/
theorem txFail_cases {s t : State} (h : txFail s = .next t) :
    (s.tstate = .txf ∨ s.tstate = .txd) ∧ t = abortTxn .eIoTx s := by
  unfold txFail at h
  cases hs : s.tstate <;> simp [hs, complete_of_failure] at h ⊢ <;> exact h.symm

theorem rxError_cases {s t : State} (h : rxError s = .next t) :
    s.tstate = .rx ∧ t = abortTxn .eIoRx s := by
  unfold rxError at h
  cases hs : s.tstate <;> simp [hs, complete_of_failure] at h ⊢
  exact h.symm

/-- The result of a status response is told by its status byte (R125). -/
theorem statusResult_cases (s : State) :
    (s.rb[10] = 0x01 ∧ statusResult s = .eNone) ∨ (s.rb[10] ≠ 0x01 ∧ statusResult s = .eProtocol) := by
  unfold statusResult
  split
  · next h => exact .inl ⟨h, rfl⟩
  · next h => exact .inr ⟨h, rfl⟩

/-- `RxByte`: the byte is stored and the wait starts anew, or the response is complete. -/
theorem rxByte_cases {b : Byte} {s t : State} (h : rxByte b s = .next t) :
    ∃ k n fmt, s.tstate = .rx ∧ s.rcnt.toNat < 26 ∧ timeoutTicks s.op = some k ∧ respLen s.op = some n ∧
      respFormat s.op = some fmt ∧
      (((storeByte b k s).rcnt.toNat ≠ n ∧ t = storeByte b k s) ∨
       ((storeByte b k s).rcnt.toNat = n ∧
        complete (runDecoder fmt (storeByte b k s)).2 (runDecoder fmt (storeByte b k s)).1 = .next t)) := by
  unfold rxByte at h
  cases hs : s.tstate with
  | idle => simp [hs] at h
  | txf => simp [hs] at h
  | txd => simp [hs] at h
  | rx =>
    simp only [hs] at h
    split at h
    · next hc =>
      cases ht : timeoutTicks s.op with
      | none => simp [ht] at h
      | some k =>
        simp only [ht] at h
        have hcases := timeoutTicks_eq_some ht
        obtain ⟨n, fmt, hn, hf⟩ : ∃ n fmt, respLen s.op = some n ∧ respFormat s.op = some fmt := by
          rcases hcases with ⟨-, -, h1, h2⟩ | ⟨-, -, h1, h2⟩ | ⟨-, -, h1, h2⟩ | ⟨-, -, h1, h2⟩ <;>
            exact ⟨_, _, h1, h2⟩
        refine ⟨k, n, fmt, rfl, hc, rfl, hn, hf, ?_⟩
        simp only [afterRxByte, storeByte_op, hn, hf] at h
        split at h
        · next he => exact .inr ⟨he, h⟩
        · next he => exact .inl ⟨he, by simpa using h.symm⟩
    · cases h

/-- `Tick`. -/
theorem tick_cases {s t : State} (h : tick s = .next t) :
    (s.tstate ≠ .rx ∧ t = s) ∨
    (s.tstate = .rx ∧ s.timer - 1 ≠ 0 ∧ t = countDown s) ∨
    (s.tstate = .rx ∧ s.timer - 1 = 0 ∧ t = abortTxn .eTimeout (countDown s)) := by
  unfold tick at h
  cases hs : s.tstate with
  | idle => exact .inl ⟨by simp, by simpa [hs] using h.symm⟩
  | txf => exact .inl ⟨by simp, by simpa [hs] using h.symm⟩
  | txd => exact .inl ⟨by simp, by simpa [hs] using h.symm⟩
  | rx =>
    simp only [hs, countDown_timer] at h
    by_cases h1 : s.timer - 1 = 0
    · rw [if_pos h1, complete_of_failure (by simp)] at h
      exact .inr (.inr ⟨rfl, h1, by simpa using h.symm⟩)
    · rw [if_neg h1] at h
      exact .inr (.inl ⟨rfl, h1, by simpa using h.symm⟩)

end Sys2Proof.Machine
end

