-- ==== Sys2Proof/Laws/Step.lean ====
section
/-! SUPPORT. What a step does: it takes the oldest enabled event and lets it happen. -/

namespace Sys2Proof.Machine

/-- The event taken is a pending one, it is enabled, none before it is, and the rest stays in order. -/
theorem oldestEnabled_eq_some {s : State} {es rest : List Event} {e : Event}
    (h : oldestEnabled s es = some (e, rest)) :
    ∃ before after, es = before ++ e :: after ∧ rest = before ++ after ∧ enabled e s = true ∧
      ∀ x ∈ before, enabled x s = false := by
  induction es generalizing rest with
  | nil => cases h
  | cons x xs ih =>
    unfold oldestEnabled at h
    split at h
    · next hx =>
      cases h
      exact ⟨[], xs, rfl, rfl, hx, by simp⟩
    · next hx =>
      split at h
      · cases h
      · next e' es' heq =>
        cases h
        obtain ⟨before, after, h1, h2, h3, h4⟩ := ih heq
        refine ⟨x :: before, after, by rw [h1]; rfl, by rw [h2]; rfl, h3, ?_⟩
        intro y hy
        rcases List.mem_cons.mp hy with rfl | hy
        · simpa using hx
        · exact h4 y hy

theorem oldestEnabled_cons {s : State} {e : Event} (h : enabled e s = true) (es : List Event) :
    oldestEnabled s (e :: es) = some (e, es) := by simp [oldestEnabled, h]

/-- What a step can answer. -/
theorem step_cases (s : State) :
    (takeEvent s = none ∧ step s = .next s) ∨
    (∃ e rest i, oldestEnabled s s.pending = some (e, rest) ∧ fetch e = .ok i ∧
      step s = exec i (setPending rest s)) ∨
    (∃ e rest err, oldestEnabled s s.pending = some (e, rest) ∧ fetch e = .error err ∧
      step s = perform e (setPending rest s)) := by
  unfold step takeEvent
  cases ho : oldestEnabled s s.pending with
  | none => exact .inl ⟨rfl, rfl⟩
  | some p =>
    obtain ⟨e, rest⟩ := p
    cases hf : fetch e with
    | ok i => exact .inr (.inl ⟨e, rest, i, rfl, hf, by simp [hf]⟩)
    | error err => exact .inr (.inr ⟨e, rest, err, rfl, hf, by simp [hf]⟩)

/-- A step whose oldest pending event is enabled. -/
theorem step_of_enabled {s : State} {e : Event} (h : enabled e s = true) (es : List Event) :
    step (setPending (e :: es) s) =
      match fetch e with
      | .ok i => exec i (setPending es s)
      | .error _ => perform e (setPending es s) := by
  have he : enabled e (setPending (e :: es) s) = true := by
    rw [← h]
    cases e <;> rfl
  rw [step, takeEvent, setPending_pending, oldestEnabled_cons he]
  rfl

end Sys2Proof.Machine
end

