-- ==== Sys2Proof/Laws/PerInstr.lean ====
section
/-! SUPPORT. The family EncodedForm: the words of a well-formed instruction have the form and the length of its row in
spec/opcode_table.json. -/

namespace Sys2Proof.Laws.EncodedForm

/-- A frame of FRAME_LEN bytes (R70), a response of its format's length (R74 to R76), or a write to CTRL or CSDATA
(R82). -/
def formOk : Code → Bool
  | .frame bs => bs.length == Config.frameLen
  | .response fmt bs => bs.length == fmt.length
  | .hostWrite i _ => i == ctrlIndex || i == csDataIndex

def Statement (i : Instr) : Prop := WellFormed i = true → formOk (encode i) = true

theorem getVersion (size : Half) (addr : Addr) (wr : Bool) : Statement (.getVersion size addr wr) := fun _ => by
  simp [encode, formOk, Config.frameLen]
theorem flashRead (size : Half) (addr : Addr) (wr : Bool) : Statement (.flashRead size addr wr) := fun _ => by
  simp [encode, formOk, Config.frameLen]
theorem flashWrite (size : Half) (addr : Addr) (wr : Bool) : Statement (.flashWrite size addr wr) := fun _ => by
  simp [encode, formOk, Config.frameLen]
theorem flashErase (size : Half) (addr : Addr) (wr : Bool) : Statement (.flashErase size addr wr) := fun _ => by
  simp [encode, formOk, Config.frameLen]
theorem configRead (size : Half) (addr : Addr) (wr : Bool) : Statement (.configRead size addr wr) := fun _ => by
  simp [encode, formOk, Config.frameLen]
theorem configWrite (size : Half) (addr : Addr) (wr : Bool) : Statement (.configWrite size addr wr) := fun _ => by
  simp [encode, formOk, Config.frameLen]
theorem checksum (size : Half) (addr : Addr) (wr : Bool) : Statement (.checksum size addr wr) := fun _ => by
  simp [encode, formOk, Config.frameLen]
theorem reset (size : Half) (addr : Addr) (wr : Bool) : Statement (.reset size addr wr) := fun _ => by
  simp [encode, formOk, Config.frameLen]
theorem respVersion (header : List Byte) (version maxPkt unused14 devId unused18 : Half) (row latch : Byte) (cfg : Word) :
    Statement (.respVersion header version maxPkt unused14 devId unused18 row latch cfg) := fun h => by
  simp only [WellFormed, headerOk, Config.frameLen, beq_iff_eq] at h
  simp [encode, formOk, versionBytes, h, RespFormat.length, Config.verRespLen]
theorem respStatus (header : List Byte) (status : Byte) : Statement (.respStatus header status) := fun h => by
  simp only [WellFormed, headerOk, Config.frameLen, beq_iff_eq] at h
  simp [encode, formOk, statusBytes, h, RespFormat.length, Config.statusRespLen]
theorem respChecksum (header : List Byte) (csum : Half) : Statement (.respChecksum header csum) := fun h => by
  simp only [WellFormed, headerOk, Config.frameLen, beq_iff_eq] at h
  simp [encode, formOk, csumBytes, h, RespFormat.length, Config.csumRespLen]
theorem srst : Statement .srst := fun _ => rfl
theorem start : Statement .start := fun _ => rfl
theorem cmd : Statement .cmd := fun _ => rfl
theorem encodeFrame : Statement .encodeFrame := fun _ => rfl
theorem decodeFrame : Statement .decodeFrame := fun _ => rfl
theorem csClr : Statement .csClr := fun _ => rfl
theorem csRange : Statement .csRange := fun _ => rfl
theorem csPush (b : Byte) : Statement (.csPush b) := fun _ => rfl

end Sys2Proof.Laws.EncodedForm
end

