-- ==== Sys2Proof/Tests/Slice0.lean ====
section
/-! SUPPORT. The model's own tests: ill-formed terms, words written out from the spec's encodings, single steps whose
results are the spec's worked examples (the rule is named at each), and a state that meets the hypotheses of each
obligation. -/

namespace Sys2Proof.Tests

-- `Inv` is a long conjunction of decidable checks.
set_option synthInstance.maxSize 2000

open Sys2Proof.Machine

/-- A field of the state a rule answers, if it answers one. -/
def after {α : Type} (r : Result) (f : State → α) : Option α :=
  match r with
  | .next t => some (f t)
  | .fault _ => none
  | .refused _ => none

/-! ## WellFormed refuses a response whose header is not ten bytes (30_encoding.md R74 to R76) -/

theorem test_wf_version_header : WellFormed (.respVersion [0x55] 0 0 0 0 0 0 0 0) = false := by decide
theorem test_wf_status_header : WellFormed (.respStatus (List.replicate 11 0) 1) = false := by decide
theorem test_wf_checksum_header : WellFormed (.respChecksum [] 0x0880) = false := by decide

/-! ## One word per constructor, written out from 30_encoding.md R70, R72, R74 to R76, R82 -/

theorem test_word_getversion :
    decode (.frame [0x55, 0x00, 0x00, 0x00, 0x00, 0x00, 0x00, 0x00, 0x00, 0x00]) = .ok (.getVersion 0 0 false) := by decide
theorem test_word_flashread :
    decode (.frame [0x55, 0x01, 0x40, 0x00, 0x00, 0x00, 0x34, 0x12, 0x00, 0x00]) =
      .ok (.flashRead 0x40 0x1234 false) := by decide
theorem test_word_flashwrite :
    decode (.frame [0x55, 0x02, 0x80, 0x00, 0x55, 0xAA, 0x00, 0x08, 0x00, 0x00]) =
      .ok (.flashWrite 0x80 0x800 true) := by decide
theorem test_word_flasherase :
    decode (.frame [0x55, 0x03, 0x64, 0x00, 0x55, 0xAA, 0x00, 0x08, 0x00, 0x00]) =
      .ok (.flashErase 100 0x800 true) := by decide
theorem test_word_configread :
    decode (.frame [0x55, 0x06, 0x04, 0x00, 0x00, 0x00, 0x00, 0x00, 0x30, 0x00]) =
      .ok (.configRead 4 0x300000 false) := by decide
theorem test_word_configwrite :
    decode (.frame [0x55, 0x07, 0x04, 0x00, 0x55, 0xAA, 0x00, 0x00, 0x30, 0x00]) =
      .ok (.configWrite 4 0x300000 true) := by decide
theorem test_word_checksum :
    decode (.frame [0x55, 0x08, 0xF0, 0xFF, 0x00, 0x00, 0x00, 0x08, 0x00, 0x00]) =
      .ok (.checksum 0xFFF0 0x800 false) := by decide
theorem test_word_reset :
    decode (.frame [0x55, 0x09, 0x00, 0x00, 0x00, 0x00, 0x00, 0x00, 0x00, 0x00]) = .ok (.reset 0 0 false) := by decide
theorem test_word_resp_version :
    decode (.response .version [0x55, 0, 0, 0, 0, 0, 0, 0, 0, 0, 0x00, 0x08, 0x01, 0x00, 0xDE, 0xAD, 0x30, 0x43, 0xBE, 0xEF,
      0x40, 0x80, 0x00, 0x00, 0x00, 0x0B]) =
      .ok (.respVersion [0x55, 0, 0, 0, 0, 0, 0, 0, 0, 0] 0x0008 0x0100 0xDEAD 0x3043 0xBEEF 0x40 0x80 0x0B) := by decide
theorem test_word_resp_status :
    decode (.response .status [0x55, 0x02, 0x80, 0x00, 0x55, 0xAA, 0x00, 0x08, 0x00, 0x00, 0x01]) =
      .ok (.respStatus [0x55, 0x02, 0x80, 0x00, 0x55, 0xAA, 0x00, 0x08, 0x00, 0x00] 0x01) := by decide
theorem test_word_resp_checksum :
    decode (.response .csum [0, 1, 2, 3, 4, 5, 6, 7, 8, 9, 0x08, 0x80]) =
      .ok (.respChecksum [0, 1, 2, 3, 4, 5, 6, 7, 8, 9] 0x0880) := by decide
theorem test_word_requests :
    decode (.hostWrite 0x00 0x01) = .ok .srst ∧ decode (.hostWrite 0x00 0x02) = .ok .start ∧
    decode (.hostWrite 0x00 0x04) = .ok .cmd ∧ decode (.hostWrite 0x00 0x08) = .ok .encodeFrame ∧
    decode (.hostWrite 0x00 0x10) = .ok .decodeFrame ∧ decode (.hostWrite 0x00 0x20) = .ok .csClr ∧
    decode (.hostWrite 0x00 0x40) = .ok .csRange ∧ decode (.hostWrite 0x07 0xFFFFFF78) = .ok (.csPush 0x78) := by decide

/-- Words that are no instruction, each refused by name (R80, R81, R87, 10_state.md R37). -/
theorem test_words_refused :
    decode (.frame [0x55, 0x0A, 0, 0, 0, 0, 0, 0, 0, 0]) = .error .reservedOpcode ∧
    decode (.frame [0x54, 0x00, 0, 0, 0, 0, 0, 0, 0, 0]) = .error .badAutobaud ∧
    decode (.frame [0x55, 0x00, 0, 0, 0, 0, 0, 0, 0, 1]) = .error .badPad ∧
    decode (.frame [0x55, 0x00, 0, 0, 0x55, 0, 0, 0, 0, 0]) = .error .badMagic ∧
    decode (.frame [0x55, 0x00, 0, 0, 0, 0, 0, 0, 0]) = .error .frameLength ∧
    decode (.response .status (List.replicate 12 0)) = .error .responseLength ∧
    decode (.hostWrite 0x00 0xFFFFFF80) = .error .noStrobe ∧
    decode (.hostWrite 0x00 0x06) = .error .severalStrobes ∧
    decode (.hostWrite 0x02 0x00) = .error .notRequest := by decide

/-! ## Table words as step takes them (R83; logs 2 and 3) -/

/-- Byte 0 in bits 7:0, and byte 0 in the most significant byte as R83 numbers `match`. -/
theorem test_table_word_frame :
    decodeTableWord 80 0x000008000000FFF00855 = some (.checksum 0xFFF0 0x800 false) ∧
    decodeTableWord 80 0x5508F0FF000000080000 = some (.checksum 0xFFF0 0x800 false) := by decide
theorem test_table_word_others :
    decodeTableWord 32 0x40 = some .csRange ∧ decodeTableWord 32 0x178 = some (.csPush 0x78) ∧
    decodeTableWord 88 0 = some (.respStatus (List.replicate 10 0) 0) ∧
    decodeTableWord 96 0 = some (.respChecksum (List.replicate 10 0) 0) ∧
    decodeTableWord 208 0 = some (.respVersion (List.replicate 10 0) 0 0 0 0 0 0 0 0) := by decide
theorem test_fetch_start :
    after (step (State.reset.withFetchWord 32 0x02)) (fun t => (t.sstate, t.tstate, t.fb[0])) =
      some (.query, .txf, 0x55) := by decide
theorem test_fetch_erase :
    after (step (State.reset.withFetchWord 80 0x00000800AA5500640355)) (fun t => (t.op, t.size, t.addr, t.tstate)) =
      some (0x03, 100, 0x800, .txf) := by decide
theorem test_fetch_status :
    after (step (State.reset.withFetchWord 88 0x0100000000000000000000)) (fun t => (t.rspStatus, t.tres, t.rcnt)) =
      some (0x01, .eNone, 11) := by decide

/-! ## Small states -/

/-- A transaction about to send its first byte. -/
def sending (op : Byte) (size : Half) (addr : Addr) : State := launch (loadOperands op size addr State.reset)

/-- The receive wait of a command with `n` bytes received. -/
def waiting (op : Byte) (n : BitVec 5) : State :=
  enterRx ((timeoutTicks op).getD 0) { sending op 0 0 with rcnt := n }

/-- A session in a phase, in the receive wait of the phase's command. -/
def inPhase (ss : SState) (op : Byte) (size : Half) (offset : Addr) (progress : BitVec 7) : State :=
  { enterRx ((timeoutTicks op).getD 0) (sending op size offset) with
    sstate := ss, offset := offset, progress := progress, img := [(0x1FFFF, 0x55)] }

/-- A session about to send the page at an offset. -/
def atPage (offset : Addr) : State :=
  { sending 0x02 0x80 offset with
    sstate := .write, offset := offset, progress := progressAt offset, img := [(0x1FFFF, 0x55)] }

/-- IMG[0x1000 + j] = j for j = 0 .. 15. -/
def countingImage : Memory := (List.range 16).map fun j => (0x1000 + j, BitVec.ofNat 8 j)

/-! ## The checksum engine -/

/-- The table of 95_test_vectors.md section 2.1. -/
theorem test_checksum_vectors :
    checksum [] = 0 ∧ checksum [0x7F] = 0 ∧ checksum [0x01, 0x02] = 0x0102 ∧ checksum [0x12, 0x34, 0x56] = 0x1234 ∧
    checksum [0x01, 0x02, 0x03, 0x04] = 0x0406 ∧ checksum [0x03, 0x04, 0x01, 0x02] = 0x0406 ∧
    checksum [0x02, 0x01, 0x04, 0x03] = 0x0604 ∧ checksum [0xFF, 0x00, 0x01, 0x00] = 0x0001 := by decide
/-- R104's example, its last byte. -/
theorem test_cspush_carry :
    after (exec (.csPush 0x00) { State.reset with csA := 0xFF, csH := 0x01, csPh := true }) csValue = some 0x0001 := by
  decide
theorem test_cspush_first :
    after (exec (.csPush 0xAB) { State.reset with csA := 0x11 }) (fun t => (t.csA, t.csH, t.csPh)) =
      some (0x11, 0xAB, true) := by decide
/-- R103. -/
theorem test_csclr :
    after (exec .csClr { State.reset with csA := 1, csB := 2, csPh := true }) (fun t => (csValue t, t.csPh)) =
      some (0, false) := by decide
/-- R105's example. -/
theorem test_csrange :
    after (exec .csRange { State.reset with addr := 0x1000, size := 16, img := countingImage }) csValue =
      some 0x3840 := by decide
theorem test_csrange_refused :
    after (exec .csRange { State.reset with addr := 0x0FFFFF, size := 2 }) (fun t => (t.herr, csValue t)) =
      some (true, 0) := by decide

/-! ## The frame codec -/

/-- R120's example with WR = 0. -/
theorem test_encode :
    after (exec .encodeFrame { State.reset with op := 0x03, size := 0x64, addr := 0x800 }) (·.fb) =
      some #v[0x55, 0x03, 0x64, 0x00, 0x00, 0x00, 0x00, 0x08, 0x00, 0x00] := by decide
/-- R122's example. -/
theorem test_decode :
    after (exec .decodeFrame { State.reset with fb := #v[0x55, 0x03, 0x64, 0x00, 0x55, 0xAA, 0x00, 0x08, 0x00, 0x00] })
      (fun t => (t.dOp, t.dSize, t.dAddr, t.dWr, t.dOk, t.dKnown)) = some (0x03, 0x64, 0x800, true, true, true) := by decide
/-- R122's corner: FB all zero. -/
theorem test_decode_zero :
    after (exec .decodeFrame State.reset) (fun t => (t.dOk, t.dKnown)) = some (false, true) := by decide

/-! ## Commands (R153 to R160) -/

theorem test_getversion :
    after (exec (.getVersion 0 0 false) { State.reset with infoValid := true }) (fun t => (t.fb, t.infoValid)) =
      some (#v[0x55, 0, 0, 0, 0, 0, 0, 0, 0, 0], false) := by decide
theorem test_flashwrite :
    after (exec (.flashWrite 0x80 0x800 false) State.reset) (·.fb) =
      some #v[0x55, 0x02, 0x80, 0x00, 0x55, 0xAA, 0x00, 0x08, 0x00, 0x00] := by decide
/-- R145: one byte past the image. -/
theorem test_flashwrite_range :
    after (exec (.flashWrite 2 0x0FFFFF true) State.reset) (fun t => (t.tres, t.tstate)) =
      some (.eRange, .idle) := by decide
/-- R156: INFO_ROW = 0x40, 2016 rows. -/
theorem test_flasherase :
    after (exec (.flashErase 2016 0x800 false) State.reset) (·.fb) =
      some #v[0x55, 0x03, 0xE0, 0x07, 0x55, 0xAA, 0x00, 0x08, 0x00, 0x00] := by decide
/-- P_ERASE_WR = 0 (00_scope.md R7). -/
theorem test_flasherase_no_magic :
    after (exec (.flashErase 2016 0x800 true) { State.reset with params := { eraseWr := false } }) (fun t => (t.fb[4], t.wr)) =
      some (0, false) := by decide
theorem test_checksum_command :
    after (exec (.checksum 0xFFF0 0x800 false) State.reset) (·.fb) =
      some #v[0x55, 0x08, 0xF0, 0xFF, 0x00, 0x00, 0x00, 0x08, 0x00, 0x00] := by decide
theorem test_reset_command :
    after (exec (.reset 0 0 false) State.reset) (·.fb) = some #v[0x55, 0x09, 0, 0, 0, 0, 0, 0, 0, 0] := by decide
/-- R154, R157, R158. -/
theorem test_unrun_commands :
    after (exec (.flashRead 0x40 0x1234 false) State.reset) (fun t => (t.tres, t.herr)) = some (.eUnsup, false) ∧
    after (exec (.configRead 4 0x300000 false) State.reset) (fun t => (t.tres, t.herr)) = some (.eUnsup, false) ∧
    after (exec (.configWrite 4 0x300000 true) State.reset) (fun t => (t.tres, t.herr)) = some (.eUnsup, false) := by
  decide
/-- R140: the operands stand in OP, SIZE, ADDR; a busy block refuses. -/
theorem test_cmd :
    after (exec .cmd State.reset) (fun t => (t.tstate, t.fb[0])) = some (.txf, 0x55) ∧
    after (exec .cmd (waiting 0x00 0)) (·.herr) = some true := by decide

/-! ## Responses (the examples of 41_frame_codec.md R124 to R126) -/

set_option maxRecDepth 4000 in
theorem test_resp_version :
    after (exec (.respVersion [0x55, 0, 0, 0, 0, 0, 0, 0, 0, 0] 0x0008 0x0100 0xDEAD 0x3043 0xBEEF 0x40 0x80 0x0B)
      (waiting 0x00 0)) (fun t => (t.infoVersion, t.infoDevid, t.infoRow, t.infoLatch, t.infoCfg, t.infoValid)) =
      some (0x0008, 0x3043, 0x40, 0x80, 0x0B, true) := by decide
theorem test_resp_status :
    after (exec (.respStatus (List.replicate 10 0) 0xFF) (waiting 0x02 0)) (fun t => (t.rspStatus, t.tres)) =
      some (0xFF, .eProtocol) := by decide
theorem test_resp_checksum :
    after (exec (.respChecksum (List.replicate 10 0) 0x0880) (waiting 0x08 0)) (fun t => (t.rspCsum, t.tres, t.rb[10])) =
      some (0x0880, .eNone, 0x08) := by decide
/-- 20_memory.md R56: not ready. -/
theorem test_resp_status_waits :
    after (exec (.respStatus (List.replicate 10 0) 0x01) State.reset) (fun t => (t.pending.length, t.rspStatus)) =
      some (11, 0) := by decide

/-! ## Requests of the dispatcher and events -/

/-- R200: a second session needs a reset first. -/
theorem test_start_once : after (exec .start { State.reset with sstate := .done }) (·.herr) = some true := by decide
/-- R201: a session in progress is abandoned and IMG stays. -/
theorem test_srst :
    after (exec .srst (atPage 0x880)) (fun t => (t.sstate, t.tstate, t.offset, t.img)) =
      some (.idle, .idle, 0, [(0x1FFFF, 0x55)]) := by decide
/-- R261. -/
theorem test_status_after_reset : statusWord State.reset = 0x00002000 := by decide
/-- R146: the tenth byte of a page, then its payload. -/
theorem test_txaccept_payload :
    after (txAccept { atPage 0x800 with idx := 9 }) (fun t => (t.tstate, t.idx, txByte t)) =
      some (.txd, 0, some 0xFF) := by decide
/-- R241: the tick that takes TIMER to 0. -/
theorem test_tick_timeout :
    after (tick { waiting 0x00 3 with timer := 1 }) (fun t => (t.tres, t.tstate, t.timer, t.rcnt)) =
      some (.eTimeout, .idle, 0, 3) := by decide
/-- R204: INFO_ROW = 1 does not fit the size field. -/
theorem test_erase_row_one :
    after (complete .eNone { inPhase .query 0x00 0 0 0 with infoRow := 1 }) (fun t => (t.failPhase, t.failCause)) =
      some (.erase, .eParam) := by decide
/-- R214: 100 after the last page; R208: the first window follows. -/
theorem test_last_page :
    after (complete .eNone (atPage 0x01FF80)) (fun t => (t.sstate, t.progress, t.size, t.addr)) =
      some (.verify, 100, 0xFFF0, 0x800) := by decide
/-- Source example S4: the 50th page fails at 0x2080. -/
theorem test_failed_page :
    after (complete .eProtocol (atPage 0x2080)) (fun t => (t.failPhase, t.failCause, t.offset)) =
      some (.write, .eProtocol, 0x2080) := by decide

/-! ## A state for the hypotheses of each obligation, at the values where its clauses meet -/

/-- A busy block and one that is not: the two clauses of every request. -/
theorem witness_busy_or_not :
    busy (waiting 0x00 0) = true ∧ busy (sending 0x09 0 0) = true ∧ busy State.reset = false ∧
    busy { State.reset with sstate := .failed } = false := by decide
theorem witness_ResetZeroesEveryRegister :
    (0x00000001 : Word).getLsbD 0 = true ∧ (0xFFFFFFFF : Word).getLsbD 0 = true := by decide
theorem witness_CsClrResult : busy (waiting 0x00 0) = true ∧ busy State.reset = false := by decide
theorem witness_CsPushResult :
    busy (waiting 0x00 0) = true ∧ busy State.reset = false ∧ State.reset.csPh = false ∧
    busy { State.reset with csPh := true } = false := by decide
theorem witness_CsRangeResult :
    busy (waiting 0x00 0) = true ∧ busy { State.reset with addr := 0x100000, size := 1 } = false ∧
    0x100000 < (0x100000 : Addr).toNat + (1 : Half).toNat ∧ (0x100000 : Addr).toNat + (0 : Half).toNat ≤ 0x100000 := by decide
theorem witness_ChecksumPairByPair : ([] : List Byte).length % 2 = 0 ∧ ([1, 2] : List Byte).length % 2 = 0 := by decide
theorem witness_ChecksumIsSwappedWordSum :
    [((1 : Byte), (2 : Byte)), (3, 4)].Perm [(3, 4), (1, 2)] := by decide
theorem witness_EncodeResult : busy (waiting 0x00 0) = true ∧ busy State.reset = false := by decide
theorem witness_DecodeResult : busy (waiting 0x00 0) = true ∧ busy State.reset = false := by decide
theorem witness_EncodeDecodeRoundTrip :
    ∃ t u, busy State.reset = false ∧ exec .encodeFrame State.reset = .next t ∧ busy t = false ∧
      exec .decodeFrame t = .next u ∧ u.dOk = true := ⟨_, _, rfl, rfl, rfl, rfl, by decide⟩
theorem witness_DecodeOfEncode :
    WellFormed (.respVersion (List.replicate 10 0) 0 0 0 0 0 0 0 0) = true ∧ WellFormed (.csPush 0xFF) = true := by decide
theorem witness_EncodeOfDecode :
    decode (.frame [0x55, 0x09, 0, 0, 0x55, 0xAA, 0xFF, 0xFF, 0xFF, 0]) = .ok (.reset 0 0xFFFFFF true) ∧
    decode (.response .csum (List.replicate 12 0xFF)) = .ok (.respChecksum (List.replicate 10 0xFF) 0xFFFF) := by decide
theorem witness_CtrlWriteSelectsRequest :
    strobeCount 0xFFFFFF80 = 0 ∧ (0x7F : Word).getLsbD 0 = true ∧ strobeCount 0x06 = 2 ∧
    (0x06 : Word).getLsbD 0 = false ∧ strobeCount 0x40 = 1 ∧ (0x40 : Word).getLsbD 6 = true ∧ strobeCount 0x01 = 1 := by
  decide
theorem witness_EngineTables : supported 0x01 = false ∧ supported 0xFF = false := by decide
theorem witness_CmdResult :
    busy (waiting 0x00 0) = true ∧ busy State.reset = false ∧ supported 0x01 = false ∧ supported 0x02 = true ∧
    0x100000 < (0x0FFFFF : Addr).toNat + (2 : Half).toNat ∧ (0x0FFFFF : Addr).toNat + (1 : Half).toNat ≤ 0x100000 := by decide
theorem witness_ReservedOpcodes :
    busy { State.reset with op := 0x0A } = false ∧ 0x0A ≤ (0x0A : Byte).toNat ∧ 0x0A ≤ (0xFF : Byte).toNat ∧
    busy { State.reset with op := 0x04 } = false := by decide
theorem witness_RunCommandsStart : busy State.reset = false := by decide
theorem witness_FlashWriteStartsOrLeavesTheImage :
    busy State.reset = false ∧ 0x100000 < (0x100000 : Addr).toNat + (1 : Half).toNat ∧
    (0x100000 : Addr).toNat + (0 : Half).toNat ≤ 0x100000 := by decide
theorem witness_UnrunCommandsEndAtOnce : busy { State.reset with sstate := .done } = false := by decide
theorem witness_BusyRefusesAllButSrst :
    busy (inPhase .verify 0x08 0xFFF0 0x800 100) = true ∧ 2 ≤ (0x02 : Index).toNat ∧ (0x05 : Index).toNat ≤ 5 ∧
    0x10 ≤ (0x10 : Index).toNat ∧ (0x19 : Index).toNat ≤ 0x19 := by decide
theorem witness_CommandIsOperandsThenCmd :
    commandOf 0x00 1 2 true = some (.getVersion 1 2 true) ∧ commandOf 0x09 0 0 false = some (.reset 0 0 false) ∧
    busy (waiting 0x08 0) = true ∧ busy State.reset = false := by decide
theorem witness_TxAcceptResult :
    (sending 0x02 1 0).tstate = .txf ∧ (sending 0x02 1 0).idx.toNat < 9 ∧ ({ sending 0x02 1 0 with idx := 9 }).idx.toNat = 9 ∧
    (sending 0x02 1 0).op = 0x02 ∧ (sending 0x02 1 0).size ≠ 0 ∧ (sending 0x02 0 0).size = 0 ∧
    (enterTxd (sending 0x02 1 0x0FFFFF)).tstate = .txd ∧ (0x0FFFFF : Addr).toNat + 0 < 0x100000 ∧
    (enterTxd (sending 0x02 1 0)).idx + 1 = 1 ∧ (enterTxd (sending 0x02 2 0)).idx + 1 ≠ 2 := by decide
theorem witness_TxDoneResult :
    (sending 0x09 0 0).op = 0x09 ∧ (sending 0x03 0 0).op = 0x03 ∧ (sending 0x00 0 0).op = 0x00 := by decide
theorem witness_ChannelErrorsEndTheTransaction :
    (sending 0x00 0 0).tstate = .txf ∧ sessionActive (sending 0x00 0 0).sstate = false ∧
    (atPage 0x800).tstate = .txf ∧ sessionActive (atPage 0x800).sstate = true ∧ (enterTxd (atPage 0x800)).tstate = .txd ∧
    (waiting 0x00 0).tstate = .rx ∧ sessionActive (inPhase .reset 0x09 0 0x01FFFE 100).sstate = true := by decide
theorem witness_RxByteResult :
    (waiting 0x00 0).tstate = .rx ∧ respLen 0x00 = some 26 ∧ timeoutTicks 0x00 = some 1000 ∧
    (waiting 0x00 24).rcnt.toNat + 1 < 26 ∧ (waiting 0x00 25).rcnt.toNat + 1 = 26 ∧ (waiting 0x03 10).rcnt.toNat + 1 = 11 ∧
    (waiting 0x08 11).rcnt.toNat + 1 = 12 := by decide
theorem witness_TickResult :
    (sending 0x00 0 0).tstate ≠ .rx ∧ (waiting 0x03 0).tstate = .rx ∧ (waiting 0x03 0).timer ≠ 1 ∧
    ({ waiting 0x03 0 with timer := 1 }).timer = 1 ∧ Inv { waiting 0x03 0 with timer := 1 } := by decide
theorem witness_WaitRunsOutAfterItsTicks :
    (waiting 0x08 0).tstate = .rx ∧ (waiting 0x08 0).timer ≠ 0 ∧ 999 < (waiting 0x08 0).timer.toNat := by decide
theorem witness_ReceiveWaitIsBounded :
    Inv { waiting 0x03 0 with pending := [.tick] } ∧
    after (step { waiting 0x03 0 with pending := [.tick] }) (·.tstate) = some .rx ∧
    oldestEnabled (waiting 0x03 0) [.txAccept, .tick] = some (.tick, [.txAccept]) := by decide
theorem witness_VersionResponseDecoded :
    (List.replicate 10 (0 : Byte)).length = 10 ∧ (waiting 0x00 0).tstate = .rx ∧ (waiting 0x00 0).op = 0x00 ∧
    (waiting 0x00 0).rcnt = 0 ∧ sessionActive (waiting 0x00 0).sstate = false := by decide
theorem witness_StatusResponseDecoded :
    (waiting 0x02 0).tstate = .rx ∧ (waiting 0x02 0).op = 0x02 ∧ (waiting 0x03 0).op = 0x03 ∧ (waiting 0x03 0).rcnt = 0 ∧
    sessionActive (waiting 0x03 0).sstate = false := by decide
theorem witness_ChecksumResponseDecoded :
    (waiting 0x08 0).tstate = .rx ∧ (waiting 0x08 0).op = 0x08 ∧ (waiting 0x08 0).rcnt = 0 ∧
    sessionActive (waiting 0x08 0).sstate = false := by decide
theorem witness_UnawaitedResponseStaysInChannel :
    State.reset.tstate ≠ .rx ∧ decode (.response .status (List.replicate 11 0)) =
      .ok (.respStatus (List.replicate 10 0) 0) := by decide
theorem witness_ResponseEqualsItsByteEvents :
    (waiting 0x02 0).tstate = .rx ∧ (waiting 0x02 0).rcnt = 0 ∧ respFormat (waiting 0x02 0).op = some .status ∧
    decode (.response .status (List.replicate 11 1)) = .ok (.respStatus (List.replicate 10 1) 1) := by decide
theorem witness_StartResult :
    busy (waiting 0x00 0) = true ∧ ({ State.reset with sstate := .done }).sstate ≠ .idle ∧ busy State.reset = false ∧
    State.reset.sstate = .idle := by decide
theorem witness_FailedTransactionEndsSession :
    sessionActive (inPhase .query 0x00 0 0 0).sstate = true ∧ sessionActive (inPhase .reset 0x09 0 0x01FFFE 100).sstate = true ∧
    Cause.eTimeout ≠ .eNone := by decide
theorem witness_QueryEnds :
    (inPhase .query 0x00 0 0 0).sstate = .query ∧ (inPhase .query 0x00 0 0 0).infoRow = 0 ∧ 0xFFFF < 0x1F800 / 1 ∧
    0x1F800 / 2 ≤ 0xFFFF ∧ (2 : Byte) ≠ 0 ∧ Cause.eIoRx ≠ .eNone := by decide
theorem witness_EraseEnds : (inPhase .erase 0x03 2016 0 0).sstate = .erase ∧ Cause.eProtocol ≠ .eNone := by decide
theorem witness_PageEnds :
    (atPage 0x800).sstate = .write ∧ (atPage 0x800).op = 0x02 ∧ (atPage 0x800).size = 0x80 ∧
    0x800 ≤ (atPage 0x800).offset.toNat ∧ (atPage 0x01FF80).offset.toNat < 0x20000 ∧
    (atPage 0x01FF00).offset.toNat + 0x80 < 0x20000 ∧ 0x20000 ≤ (atPage 0x01FF80).offset.toNat + 0x80 := by decide
theorem witness_WindowEnds :
    (inPhase .verify 0x08 0xFFF0 0x800 100).sstate = .verify ∧
    (inPhase .verify 0x08 0xFFF0 0x800 100).offset.toNat + (0xFFF0 : Half).toNat < 0x1FFFE ∧
    (inPhase .verify 0x08 0xF80E 0x0107F0 100).offset.toNat + (0xF80E : Half).toNat = 0x1FFFE := by decide
/-- A window of two bytes, its local checksum 0xFFFF against RSP_CSUM = 0 and against the same value. -/
theorem witness_WindowEnds_differs_or_not :
    csValue (localChecksum (inPhase .verify 0x08 2 0x800 100)) ≠ (inPhase .verify 0x08 2 0x800 100).rspCsum ∧
    csValue (localChecksum (inPhase .verify 0x08 2 0x800 100)) = 0xFFFF := by decide
theorem witness_ResetPhaseEnds :
    (inPhase .reset 0x09 0 0x01FFFE 100).sstate = .reset ∧ Cause.eIoTx ≠ .eNone := by decide
theorem witness_SessionOnlyMovesForward :
    after (step { State.reset with pending := [.hostWrite 0x00 0x02] }) (·.sstate) = some .query ∧
    after (step { atPage 0x880 with pending := [.hostWrite 0x00 0x01] }) id = some (resetBlock (atPage 0x880)) := by decide
theorem witness_TerminalStatesStay :
    after (step { State.reset with sstate := .failed, pending := [.hostWrite 0x00 0x04] }) (·.tstate) = some .txf ∧
    after (step { State.reset with sstate := .done, pending := [.reset] }) (·.sstate) = some .idle := by decide
theorem witness_FailureEntryKeepsOffset :
    Inv { atPage 0x880 with pending := [.txFail] } ∧ (atPage 0x880).sstate ≠ .failed ∧
    after (step { atPage 0x880 with pending := [.txFail] }) (·.sstate) = some .failed := by decide
theorem witness_OnePageOfASession :
    Inv (atPage 0x800) ∧ (atPage 0x800).sstate = .write ∧ (atPage 0x800).tstate = .txf ∧ (atPage 0x800).idx = 0 ∧
    (atPage 0x800).wr = true ∧ (atPage 0x800).fb = frameOf 0x02 0x80 (atPage 0x800).offset true ∧ Inv (atPage 0x01FF80) ∧
    (atPage 0x01FF80).offset.toNat + 0x80 = 0x20000 := by decide
theorem witness_SessionReachesDone :
    Inv State.reset ∧ busy State.reset = false ∧ State.reset.sstate = .idle ∧
    2 ≤ ((Vector.replicate 26 2 : RespBuf)[20]).toNat := by decide
theorem witness_StepRunsTheDecodedRequest :
    (∀ e ∈ [Event.rxByte 1, .txAccept], enabled e State.reset = false) ∧
    decode (.hostWrite 0x00 0x08) = .ok .encodeFrame := by decide
theorem witness_StepPerformsTheOldestEnabledEvent :
    (∀ e ∈ [Event.rxError, .txFail], enabled e State.reset = false) ∧ enabled (.hostWrite 0x02 5) State.reset = true ∧
    decode (.hostWrite 0x02 5) = .error .notRequest ∧ enabled .tick State.reset = true := by decide
theorem witness_FetchedTableWordRuns :
    decodeTableWord 32 0x40 = some .csRange ∧ (decodeTableWord 80 0x5509).isNone ∧
    decodeTableWord 80 0x0955 = some (.reset 0 0 false) ∧ busy State.reset = false ∧ (decodeTableWord 81 0).isSome ∧
    (decodeTableWord 88 0).isSome ∧ (decodeTableWord 208 0).isSome := by decide
theorem witness_EveryStepKeepsInv :
    Inv (atPage 0x800) ∧ Inv (inPhase .verify 0x08 0xF80E 0x0107F0 100) ∧
    (after (step { atPage 0x800 with pending := [.txAccept] }) (·.idx)) = some 1 := by decide
theorem witness_NoStopFromInv : Inv State.reset ∧ Inv (waiting 0x03 10) := by decide
theorem witness_ImageWrittenOnlyWithSentinel :
    (after (step { inPhase .erase 0x03 2016 0x800 0 with img := [], rcnt := 10, pending := [.rxByte 1] })
      (fun t => (t.sstate, t.img))) = some (.write, [(0x1FFFF, 0x55)]) ∧ Memory.wf [] = true := by decide
theorem witness_OutputIsTheAcceptedBytes :
    (after (step { atPage 0x800 with pending := [.txAccept] }) (·.sent)) = some [0x55] ∧
    txByte (atPage 0x800) = some 0x55 := by decide
theorem witness_CommandOnTheWire :
    busy { State.reset with op := 0x02, size := 1, addr := 0x0FFFFF } = false ∧ supported 0x02 = true ∧
    (0x0FFFFF : Addr).toNat + (1 : Half).toNat ≤ 0x100000 ∧ supported 0x09 = true ∧
    imageBytes [] 0x0FFFFF 1 = [0xFF] := by decide
theorem witness_RegisterMapReads : 0x3A ≤ (0x3A : Index).toNat ∧ 0x3A ≤ (0x3F : Index).toNat := by decide
theorem witness_HostReadResult :
    readReg 0x39 State.reset = some 0 ∧ 0x3A ≤ (0x3A : Index).toNat ∧ readReg 0x07 State.reset = some 0 := by decide
theorem witness_OperandWrites : busy State.reset = false := by decide
theorem witness_RefusalsSetStickyHerr :
    (0x08 ≤ (0x08 : Index).toNat ∧ (0x0F : Index).toNat ≤ 0x0F) ∧ 0x1A ≤ (0x1A : Index).toNat ∧
    after (step { State.reset with herr := true, pending := [.tick] }) (·.herr) = some true := by decide
theorem witness_PeriodOrder :
    (0x01 : Word).getLsbD 0 = true ∧ ¬((0x02 : Index) = 0x00 ∧ (0x01 : Word).getLsbD 0 = true) ∧
    ¬((0x00 : Index) = 0x00 ∧ (0x02 : Word).getLsbD 0 = true) := by decide

end Sys2Proof.Tests
end

section
/-! SUPPORT. Which event a step takes, from where it stands in the list of pending events. -/

namespace Sys2Proof.Machine

/-- Whether an event is enabled is told by TSTATE alone, so the other events of the channel do not matter. -/
@[simp] theorem enabled_setPending (e : Event) (es : List Event) (s : State) :
    enabled e (setPending es s) = enabled e s := by
  cases e <;> rfl

/-- Events that are not enabled are passed over and stay in front. -/
theorem oldestEnabled_append {s : State} {before : List Event} (hb : ∀ e ∈ before, enabled e s = false)
    {e : Event} (he : enabled e s = true) (after : List Event) :
    oldestEnabled s (before ++ e :: after) = some (e, before ++ after) := by
  induction before with
  | nil => exact oldestEnabled_cons he after
  | cons x xs ih =>
    have hx : enabled x s = false := hb x List.mem_cons_self
    simp [oldestEnabled, hx, ih fun y hy => hb y (List.mem_cons_of_mem x hy)]

theorem oldestEnabled_eq_none {s : State} {es : List Event} (h : ∀ e ∈ es, enabled e s = false) :
    oldestEnabled s es = none := by
  induction es with
  | nil => rfl
  | cons x xs ih =>
    have hx : enabled x s = false := h x List.mem_cons_self
    simp [oldestEnabled, hx, ih fun y hy => h y (List.mem_cons_of_mem x hy)]

theorem takeEvent_append {s : State} {before : List Event} (hb : ∀ e ∈ before, enabled e s = false)
    {e : Event} (he : enabled e s = true) (after : List Event) :
    takeEvent (setPending (before ++ e :: after) s) = some (e, setPending (before ++ after) s) := by
  rw [takeEvent, setPending_pending,
    oldestEnabled_append (by simpa using hb) (by simpa using he)]
  rfl

/-- A step that takes a request executes it. -/
theorem step_of_takeEvent_request {s t : State} {e : Event} {i : Instr} (h : takeEvent s = some (e, t))
    (hf : fetch e = .ok i) : step s = exec i t := by
  simp [step, h, hf]

/-- A step that takes any other event performs it. -/
theorem step_of_takeEvent_event {s t : State} {e : Event} (h : takeEvent s = some (e, t))
    (hf : ∀ i, fetch e ≠ .ok i) : step s = perform e t := by
  cases hr : fetch e with
  | ok i => exact absurd hr (hf i)
  | error err => simp [step, h, hr]

/-- With no event enabled a step changes nothing. -/
theorem step_of_none_enabled {s : State} (h : ∀ e ∈ s.pending, enabled e s = false) : step s = .next s := by
  simp [step, takeEvent, oldestEnabled_eq_none h]

/-- Settles O47: the event list of the step takes the host write, which `fetch` decodes to the request. -/
theorem stepRunsTheDecodedRequest : Obligations.StepRunsTheDecodedRequest := by
  intro s before after i v instr hb hd
  exact step_of_takeEvent_request (takeEvent_append hb rfl after) hd

/-- Only a host write is fetched as a request. -/
theorem fetch_ne_ok {e : Event}
    (h : ∀ i v, e = .hostWrite i v → ∀ instr, decode (.hostWrite i v) ≠ .ok instr) (i : Instr) :
    fetch e ≠ .ok i := by
  cases e with
  | hostWrite j v => exact h j v rfl i
  | reset | hostRead | txAccept | txFail | rxByte | rxError | tick => exact nofun

/-- Settles O48: the oldest enabled event is taken and performed; with none there is nothing to take. -/
theorem stepPerformsTheOldestEnabledEvent : Obligations.StepPerformsTheOldestEnabledEvent := by
  intro s before after hb
  refine ⟨fun e he hr => ?_, ?_⟩
  · exact step_of_takeEvent_event (takeEvent_append hb he after) (fetch_ne_ok hr)
  · exact step_of_none_enabled (s := setPending before s) (by simpa using hb)

end Sys2Proof.Machine
end

section
/-! SUPPORT. A response is its bytes: the bytes a decoded response stands for, what one `RxByte` does before the last byte,
and the run that takes them all. -/

namespace Sys2Proof.Machine

/-! ## The bytes of a decoded response -/

@[simp] theorem hiByte_pair (hi lo : Byte) : hiByte (pair hi lo) = hi := BitVec.extractLsb'_append_eq_left

@[simp] theorem loByte_pair (hi lo : Byte) : loByte (pair hi lo) = lo := BitVec.extractLsb'_append_eq_right

@[simp] theorem wordByte_wordOf_zero (b3 b2 b1 b0 : Byte) : wordByte (wordOf b3 b2 b1 b0) 0 = b0 :=
  BitVec.extractLsb'_append_eq_right

@[simp] theorem wordByte_wordOf_one (b3 b2 b1 b0 : Byte) : wordByte (wordOf b3 b2 b1 b0) 1 = b1 :=
  (BitVec.extractLsb'_append_eq_of_le (by decide)).trans BitVec.extractLsb'_append_eq_right

@[simp] theorem wordByte_wordOf_two (b3 b2 b1 b0 : Byte) : wordByte (wordOf b3 b2 b1 b0) 2 = b2 :=
  (BitVec.extractLsb'_append_eq_of_le (by decide)).trans
    ((BitVec.extractLsb'_append_eq_of_le (by decide)).trans BitVec.extractLsb'_append_eq_right)

@[simp] theorem wordByte_wordOf_three (b3 b2 b1 b0 : Byte) : wordByte (wordOf b3 b2 b1 b0) 3 = b3 :=
  (BitVec.extractLsb'_append_eq_of_le (by decide)).trans
    ((BitVec.extractLsb'_append_eq_of_le (by decide)).trans BitVec.extractLsb'_append_eq_left)

/-- Executing a decoded response delivers the bytes it was decoded from, and they are as many as its format has. -/
theorem decodeResponse_ok {fmt : RespFormat} {bs : List Byte} {i : Instr} (h : decodeResponse fmt bs = .ok i) :
    bs.length = fmt.length ∧ ∀ s, exec i s = takeResponse bs s := by
  have htail (tail : List Byte) (hd : bs.drop Config.frameLen = tail) : bs.take Config.frameLen ++ tail = bs := by
    rw [← hd, List.take_append_drop]
  unfold decodeResponse at h
  split at h
  case h_4 => cases h
  all_goals
    next hd =>
      cases h
      have hlen := congrArg List.length hd
      rw [List.length_drop] at hlen
      refine ⟨?_, fun s => ?_⟩
      · simp [RespFormat.length, Config.verRespLen, Config.statusRespLen, Config.csumRespLen, Config.frameLen] at hlen ⊢
        omega
      · simp [exec, execRespVersion, execRespStatus, execRespChecksum, versionBytes, statusBytes, csumBytes,
          htail _ hd]

/-- An opcode that selects a format has a receive wait, and for that format's number of bytes. -/
theorem respFormat_eq_some {op : Byte} {fmt : RespFormat} (h : respFormat op = some fmt) :
    ∃ k, timeoutTicks op = some k ∧ respLen op = some fmt.length := by
  unfold respFormat at h
  split_ifs at h <;> (cases h; subst op; exact ⟨_, rfl, rfl⟩)

/-- Every response fits in RB. -/
theorem respFormat_length_le (fmt : RespFormat) : fmt.length ≤ Config.verRespLen := by
  cases fmt <;> decide

/-! ## Receiving -/

/-- Before the last byte `RxByte` only stores its byte (R150). -/
theorem rxByte_of_more {s : State} {fmt : RespFormat} {k : Nat} (hs : s.tstate = .rx)
    (hf : respFormat s.op = some fmt) (hk : timeoutTicks s.op = some k) (hm : s.rcnt.toNat + 1 < fmt.length) (b : Byte) :
    rxByte b s = .next (storeByte b k s) := by
  obtain ⟨-, -, hn⟩ := respFormat_eq_some hf
  have hle := respFormat_length_le fmt
  have hlt : s.rcnt.toNat < Config.verRespLen := by omega
  have hne : (storeByte b k s).rcnt.toNat ≠ fmt.length := by
    simp [Config.verRespLen] at hle ⊢
    omega
  simp only [rxByte, hs, hlt, hk, afterRxByte, storeByte_op, hn, hf, hne, if_true, if_false]

/-- A run of one step and more. -/
theorem runSteps_succ (k : Nat) (s : State) : runSteps (k + 1) s = andThen (step s) (runSteps k) := by
  have hcore : Sys2Proof.core.step s = step s := rfl
  simp only [runSteps, Host.Core.run, hcore]
  cases step s <;> rfl

/-- The step that takes a byte the block waits for. -/
theorem step_rxByte {s : State} (hs : s.tstate = .rx) (b : Byte) (es : List Event) :
    step (setPending (.rxByte b :: es) s) = rxByte b (setPending es s) := by
  rw [step_of_enabled (by simp [enabled, hs])]
  rfl

/-- In a receive wait, the steps that take the bytes still due are their delivery one after another. -/
theorem runSteps_rxBytes {fmt : RespFormat} (bs : List Byte) (rest : List Event) {s : State} (hs : s.tstate = .rx)
    (hf : respFormat s.op = some fmt) (hc : s.rcnt.toNat + bs.length = fmt.length) :
    runSteps bs.length (setPending (bs.map .rxByte ++ rest) s) = rxBytes bs (setPending rest s) := by
  induction bs generalizing s with
  | nil => rfl
  | cons b bs ih =>
    rw [List.length_cons, runSteps_succ, List.map_cons, List.cons_append, step_rxByte hs, rxBytes,
      if_pos (by simpa using hs)]
    cases bs with
    | nil => rfl
    | cons b' bs =>
      obtain ⟨k, hk, -⟩ := respFormat_eq_some hf
      have hle := respFormat_length_le fmt
      have hm : s.rcnt.toNat + 1 < fmt.length := by simp at hc; omega
      have hstore (es : List Event) : rxByte b (setPending es s) = .next (setPending es (storeByte b k s)) :=
        rxByte_of_more (s := setPending es s) hs hf hk hm b
      rw [hstore, hstore, andThen_next, andThen_next]
      refine ih (s := storeByte b k s) hs hf ?_
      simp [Config.verRespLen] at hc hle ⊢
      omega

/-- A wait that has taken no byte yet takes the whole response. -/
theorem takeResponse_of_fresh {s : State} (h : s.rcnt = 0) (bs : List Byte) : takeResponse bs s = rxBytes bs s := by
  simp [takeResponse, stillToCome, h]

/-- Settles O34: the decoded response is the delivery of its bytes, which is as many steps as its format has bytes. -/
theorem responseEqualsItsByteEvents : Obligations.ResponseEqualsItsByteEvents := by
  intro s i fmt bs rest hs hc hf hd
  obtain ⟨hlen, hexec⟩ := decodeResponse_ok hd
  calc runSteps bs.length (setPending (bs.map .rxByte ++ rest) s)
    _ = rxBytes bs (setPending rest s) := runSteps_rxBytes bs rest hs hf (by simp [hc, hlen])
    _ = takeResponse bs (setPending rest s) := (takeResponse_of_fresh (by simpa using hc) bs).symm
    _ = exec i (setPending rest s) := (hexec _).symm

end Sys2Proof.Machine
end

section
/-! SUPPORT. Where the machine can stop: what each rule needs in order to answer a next state, and that no rule refuses an
event that is enabled. -/

namespace Sys2Proof.Machine

/-- The rule answers a next state where `p` holds; elsewhere it may also fault. It never refuses. -/
def NextIf (p : Prop) : Result → Prop
  | .next _ => True
  | .fault _ => ¬p
  | .refused _ => False

@[simp] theorem nextIf_next (p : Prop) (t : State) : NextIf p (.next t) := trivial

theorem nextIf_fault {p : Prop} (h : ¬p) (f : Fault) : NextIf p (.fault f) := h

theorem NextIf.mono {p q : Prop} {r : Result} (h : NextIf p r) (hqp : q → p) : NextIf q r := by
  cases r with
  | next t => trivial
  | fault f => exact fun hq => h (hqp hq)
  | refused r => exact h

theorem NextIf.exists_next {p : Prop} {r : Result} (h : NextIf p r) (hp : p) : ∃ t, r = .next t := by
  cases r with
  | next t => exact ⟨t, rfl⟩
  | fault f => exact absurd hp h
  | refused r => exact h.elim

theorem NextIf.ne_refused {p : Prop} {r : Result} (h : NextIf p r) (q : Refusal) : r ≠ .refused q := by
  rintro rfl
  exact h

/-! ## The ends of a transaction -/

/-- In the verify phase the window that the sequencer reads back lies in the image (R51, R209). -/
def WindowInImage (s : State) : Prop := s.sstate = .verify → inImage s.offset.toNat s.size.toNat = true

/-- The only stop in `seq_advance` is a verify window outside the image. -/
theorem complete_nextIf (res : Cause) (s : State) : NextIf (WindowInImage s) (complete res s) := by
  by_cases hv : s.sstate = .verify
  · rw [complete_of_active (by rw [hv]; rfl), seqAdvance, endTxn_sstate, hv]
    simp only [seqVerify, endTxn_offset, endTxn_size]
    split_ifs with hres hi
    · trivial
    · exact nextIf_fault (fun h => by simp [h hv] at hi) _
    · trivial
    · trivial
  · unfold complete seqAdvance
    rw [endTxn_sstate]
    split
    · cases hs : s.sstate with
      | verify => exact absurd hs hv
      | idle | query | erase | write | reset | done | failed => trivial
    · trivial

/-- An opcode the engine runs has no response, or one with a length and a timeout (R143, R144). -/
theorem tables_of_supported {op : Byte} (h : supported op = true) :
    respLen op = some 0 ∨ ∃ n k, respLen op = some (n + 1) ∧ timeoutTicks op = some k := by
  rcases (supported_iff op).mp h with rfl | rfl | rfl | rfl | rfl
  case inr.inr.inr.inr => exact .inl rfl
  all_goals exact .inr ⟨_, _, rfl, rfl⟩

theorem txDone_nextIf (s : State) : NextIf (supported s.op = true ∧ WindowInImage s) (txDone s) := by
  unfold txDone
  split
  · next hl => exact nextIf_fault (fun h => by simpa [hl] using tables_of_supported h.1) _
  · exact (complete_nextIf .eNone s).mono And.right
  · next hl =>
    split
    · next hk => exact nextIf_fault (fun h => by simpa [hl, hk] using tables_of_supported h.1) _
    · trivial

/-! ## Sending -/

theorem afterFrameByte_nextIf (s : State) :
    NextIf (supported s.op = true ∧ WindowInImage s) (afterFrameByte s) := by
  unfold afterFrameByte
  split_ifs
  · trivial
  · exact txDone_nextIf s
  · trivial

theorem afterPayloadByte_nextIf (s : State) :
    NextIf (supported s.op = true ∧ WindowInImage s) (afterPayloadByte s) := by
  unfold afterPayloadByte
  split_ifs
  · exact txDone_nextIf s
  · trivial

/-- In T_TXF the next byte of the frame is offered. -/
theorem txByte_txf {s : State} (hs : s.tstate = .txf) (hi : s.idx.toNat < Config.frameLen) :
    ∃ b, txByte s = some b := by
  simp only [Config.frameLen] at hi
  exact ⟨s.fb[s.idx.toNat], by simp [txByte, hs, hi]⟩

/-- In T_TXD the next byte of the payload is offered. -/
theorem txByte_txd {s : State} (hs : s.tstate = .txd) (hi : s.idx.toNat < s.size.toNat)
    (hr : inImage s.addr.toNat s.size.toNat = true) : ∃ b, txByte s = some b := by
  simp only [inImage, decide_eq_true_eq] at hr
  exact ⟨cellRead s.img (s.addr.toNat + s.idx.toNat), by
    simp only [txByte, hs, memRead]; rw [if_pos (by omega)]⟩

theorem txAccept_nextIf {s : State} (he : enabled .txAccept s = true) :
    NextIf (TxnInv s ∧ WindowInImage s) (txAccept s) := by
  unfold txAccept
  cases hs : s.tstate with
  | idle | rx => simp [enabled, hs] at he
  | txf =>
    cases hb : txByte s with
    | none =>
      refine nextIf_fault (fun ⟨⟨htxf, _⟩, _⟩ => ?_) _
      obtain ⟨-, hi, -⟩ := htxf hs
      obtain ⟨b, hb'⟩ := txByte_txf hs hi
      rw [hb'] at hb
      cases hb
    | some b =>
      refine (afterFrameByte_nextIf (acceptByte b s)).mono fun ⟨⟨htxf, _⟩, hw⟩ => ?_
      exact ⟨(htxf hs).1, hw⟩
  | txd =>
    cases hb : txByte s with
    | none =>
      refine nextIf_fault (fun ⟨⟨_, htxd, _⟩, _⟩ => ?_) _
      obtain ⟨-, hi, -, hr⟩ := htxd hs
      obtain ⟨b, hb'⟩ := txByte_txd hs hi hr
      rw [hb'] at hb
      cases hb
    | some b =>
      refine (afterPayloadByte_nextIf (acceptByte b s)).mono fun ⟨⟨_, htxd, _⟩, hw⟩ => ?_
      obtain ⟨hop, -⟩ := htxd hs
      exact ⟨(supported_iff _).mpr (.inr (.inl hop)), hw⟩

theorem txFail_nextIf {s : State} (he : enabled .txFail s = true) (p : Prop) : NextIf p (txFail s) := by
  unfold txFail
  cases hs : s.tstate with
  | idle | rx => simp [enabled, hs] at he
  | txf | txd => simp [complete_of_failure]

/-! ## Receiving -/

/-- A decoder writes none of what the verify step reads. -/
theorem runDecoder_window {fmt : RespFormat} {s : State} (h : WindowInImage s) : WindowInImage (runDecoder fmt s).1 := by
  cases fmt <;> exact h

theorem afterRxByte_nextIf (s : State) :
    NextIf ((∃ fmt, respFormat s.op = some fmt) ∧ WindowInImage s) (afterRxByte s) := by
  unfold afterRxByte
  split
  · split_ifs
    · exact (complete_nextIf _ _).mono fun h => runDecoder_window h.2
    · trivial
  · next hno =>
    refine nextIf_fault (fun ⟨⟨fmt, hf⟩, _⟩ => ?_) _
    obtain ⟨_, _, hn⟩ := respFormat_eq_some hf
    exact hno _ _ hn hf

/-- In T_RX the engine's tables are defined for the opcode, and RB has room for the next byte (R26, R143, R144). -/
theorem rxWait_of_txnInv {s : State} (h : TxnInv s) (hs : s.tstate = .rx) :
    s.rcnt.toNat < Config.verRespLen ∧ ∃ k fmt, timeoutTicks s.op = some k ∧ respFormat s.op = some fmt := by
  obtain ⟨-, -, hrx⟩ := h
  obtain ⟨hc, hlo, hhi⟩ := hrx hs
  cases hk : timeoutTicks s.op with
  | none => simp [hk] at hhi; omega
  | some k =>
    obtain ⟨fmt, hf⟩ : ∃ fmt, respFormat s.op = some fmt := by
      rcases timeoutTicks_eq_some hk with ⟨-, -, -, hf⟩ | ⟨-, -, -, hf⟩ | ⟨-, -, -, hf⟩ | ⟨-, -, -, hf⟩ <;>
        exact ⟨_, hf⟩
    obtain ⟨-, -, hn⟩ := respFormat_eq_some hf
    rw [hn, Option.getD_some] at hc
    exact ⟨hc.trans_le (respFormat_length_le fmt), k, fmt, rfl, hf⟩

theorem rxByte_nextIf {s : State} (b : Byte) (he : enabled (.rxByte b) s = true) :
    NextIf (TxnInv s ∧ WindowInImage s) (rxByte b s) := by
  unfold rxByte
  cases hs : s.tstate with
  | idle | txf | txd => simp [enabled, hs] at he
  | rx =>
    simp only
    split_ifs with hc
    · split
      · next hk =>
        refine nextIf_fault (fun ⟨ht, _⟩ => ?_) _
        obtain ⟨-, k, _, hk', -⟩ := rxWait_of_txnInv ht hs
        rw [hk'] at hk
        cases hk
      · refine (afterRxByte_nextIf (storeByte b _ s)).mono fun ⟨ht, hw⟩ => ⟨?_, hw⟩
        obtain ⟨-, _, fmt, -, hf⟩ := rxWait_of_txnInv ht hs
        exact ⟨fmt, hf⟩
    · exact nextIf_fault (fun ⟨ht, _⟩ => hc (rxWait_of_txnInv ht hs).1) _

theorem rxError_nextIf {s : State} (he : enabled .rxError s = true) (p : Prop) : NextIf p (rxError s) := by
  unfold rxError
  cases hs : s.tstate with
  | idle | txf | txd => simp [enabled, hs] at he
  | rx => simp [complete_of_failure]

theorem tick_nextIf (s : State) (p : Prop) : NextIf p (tick s) := by
  unfold tick
  split
  case h_4 =>
    split_ifs
    · simp [complete_of_failure]
    · trivial
  all_goals trivial

/-! ## The step -/

/-- Every request of the host answers a next state. -/
theorem exec_of_fetch {e : Event} {i : Instr} (h : fetch e = .ok i) (s : State) : ∃ t, exec i s = .next t := by
  cases e with
  | hostWrite j v =>
    simp only [fetch, decodeHostWrite, decodeCtrl] at h
    split_ifs at h <;> (cases h; exact ⟨_, rfl⟩)
  | reset | hostRead | txAccept | txFail | rxByte | rxError | tick => cases h

theorem perform_nextIf {e : Event} {s : State} (he : enabled e s = true) :
    NextIf (TxnInv s ∧ WindowInImage s) (perform e s) := by
  cases e with
  | reset | hostWrite | hostRead => trivial
  | txAccept => exact txAccept_nextIf he
  | txFail => exact txFail_nextIf he _
  | rxByte b => exact rxByte_nextIf b he
  | rxError => exact rxError_nextIf he _
  | tick => exact tick_nextIf s _

theorem step_nextIf (s : State) : NextIf (TxnInv s ∧ WindowInImage s) (step s) := by
  rcases step_cases s with ⟨-, hstep⟩ | ⟨e, rest, i, -, hf, hstep⟩ | ⟨e, rest, err, ho, -, hstep⟩
  · rw [hstep]
    trivial
  · obtain ⟨t, ht⟩ := exec_of_fetch hf (setPending rest s)
    rw [hstep, ht]
    trivial
  · obtain ⟨-, -, -, -, he, -⟩ := oldestEnabled_eq_some ho
    rw [hstep]
    exact perform_nextIf (s := setPending rest s) (by simpa using he)

/-- The two verify windows of a session lie in the image (R216). -/
theorem windowInImage_of_sessInv {s : State} (h : SessInv s) : WindowInImage s := by
  intro hv
  obtain ⟨-, -, -, -, -, -, hverify, -⟩ := h
  obtain ⟨-, hsize, -, hstart, -⟩ := hverify hv
  rw [hsize]
  rcases hstart with ho | ho <;> (rw [ho]; decide)

/-- Settles O52: a step needs only the transaction's bounds and a verify window in the image, which Inv gives. -/
theorem noStopFromInv : Obligations.NoStopFromInv := by
  refine ⟨fun s ⟨_, htxn, hsess⟩ => ?_, fun s => (step_nextIf s).ne_refused⟩
  exact (step_nextIf s).exists_next ⟨htxn, windowInImage_of_sessInv hsess⟩

end Sys2Proof.Machine
end

section
/-! SUPPORT. The host port: what a write that is no request does in each access class, what a read returns, and the
register map (spec/10_state.md R36 to R46). -/

namespace Sys2Proof.Machine

/-! ## Writes that are no request -/

/-- The read-only and unmapped indexes (R36). -/
theorem accessOf_refused (i : Index) :
    i = 0x01 ∨ i = 0x06 ∨ (0x08 ≤ i.toNat ∧ i.toNat ≤ 0x0F) ∨ 0x1A ≤ i.toNat →
      accessOf i = .readOnly ∨ accessOf i = .unmapped := by
  revert i
  decide

/-- The operands and the frame buffer are the RW registers (R36). -/
theorem accessOf_readWrite (i : Index) :
    (2 ≤ i.toNat ∧ i.toNat ≤ 5) ∨ (0x10 ≤ i.toNat ∧ i.toNat ≤ 0x19) → accessOf i = .readWrite := by
  revert i
  decide

theorem hostWriteOther_refused {i : Index} (h : accessOf i = .readOnly ∨ accessOf i = .unmapped) (v : Word) (s : State) :
    hostWriteOther i v s = refuse s := by
  rcases h with h | h <;> simp only [hostWriteOther, h]

theorem hostWriteOther_readWrite {i : Index} (h : accessOf i = .readWrite) (v : Word) (s : State) :
    hostWriteOther i v s = if busy s then refuse s else storeOperand i v s := by
  simp only [hostWriteOther, h]

/-- A CTRL write that is no request does nothing without a strobe and is refused with several (R37). -/
theorem hostWriteOther_ctrl (v : Word) (s : State) :
    hostWriteOther ctrlIndex v s = if v.extractLsb' 0 7 = 0#7 then s else refuse s := rfl

theorem hostWriteOther_cases (i : Index) (v : Word) (s : State) :
    hostWriteOther i v s = s ∨ hostWriteOther i v s = refuse s ∨ hostWriteOther i v s = storeOperand i v s := by
  unfold hostWriteOther
  split
  · split_ifs
    · exact .inl rfl
    · exact .inr (.inl rfl)
  · split_ifs
    · exact .inr (.inl rfl)
    · exact .inr (.inr rfl)
  all_goals exact .inr (.inl rfl)

/-- Settles O58: a write to an RW register stores an operand. -/
theorem operandWrites : Obligations.OperandWrites := by
  intro s v hb
  have hstore {i : Index} (ha : accessOf i = .readWrite) :
      perform (.hostWrite i v) s = .next (storeOperand i v s) := by
    rw [perform, hostWriteOther_readWrite ha, hb, if_neg Bool.false_ne_true]
  refine ⟨hstore rfl, hstore rfl, hstore rfl, hstore rfl, fun k => ?_⟩
  rw [hstore (by revert k; decide)]
  fin_cases k <;> rfl

/-! ## Reads -/

/-- No index from 0x3A on has a register. -/
theorem readReg_unmapped {i : Index} (h : 0x3A ≤ i.toNat) (s : State) : readReg i s = none := by
  have hi : ∀ j : Index, 0x3A ≤ j.toNat → j = 0x3A ∨ j = 0x3B ∨ j = 0x3C ∨ j = 0x3D ∨ j = 0x3E ∨ j = 0x3F := by decide
  rcases hi i h with rfl | rfl | rfl | rfl | rfl | rfl <;> rfl

theorem readReg_fb (k : Fin 10) (s : State) : readReg (BitVec.ofNat 6 (0x10 + k)) s = some (s.fb[k].setWidth 32) := by
  fin_cases k <;> rfl

theorem readReg_rb (k : Fin 26) (s : State) : readReg (BitVec.ofNat 6 (0x20 + k)) s = some (s.rb[k].setWidth 32) := by
  fin_cases k <;> rfl

theorem hostRead_of_mapped {i : Index} {v : Word} {s : State} (h : readReg i s = some v) :
    hostRead i s = returnData v s := by
  simp only [hostRead, h]

theorem hostRead_of_unmapped {i : Index} {s : State} (h : readReg i s = none) :
    hostRead i s = refuse (returnData 0 s) := by
  simp only [hostRead, h]

/-- Settles O57: a read returns the register and is refused where there is none. -/
theorem hostReadResult : Obligations.HostReadResult := by
  refine fun s i => ⟨rfl, ?_, fun v hv => ?_, fun hi => ?_⟩
  · rintro (rfl | rfl) <;> rfl
  · rw [perform, hostRead_of_mapped hv]
    rfl
  · rw [perform, hostRead_of_unmapped (readReg_unmapped hi s)]
    rfl

/-! ## The fields of STATUS -/

/-- BUSY, told by the codes that STATUS shows beside it (R35). -/
theorem busy_eq_codes (s : State) :
    busy s = (decide (tstateCode s.tstate ≠ 0) ||
      decide (1 ≤ (sstateCode s.sstate).toNat ∧ (sstateCode s.sstate).toNat ≤ 5)) := by
  have htxn : (s.tstate != .idle) = decide (tstateCode s.tstate ≠ 0) := by cases s.tstate <;> rfl
  have hsession : sessionActive s.sstate =
      decide (1 ≤ (sstateCode s.sstate).toNat ∧ (sstateCode s.sstate).toNat ≤ 5) := by cases s.sstate <;> rfl
  rw [busy, htxn, hsession]

theorem done_eq_code (s : State) : done s = decide (sstateCode s.sstate = 6) := by
  unfold done
  cases s.sstate <;> rfl

theorem failed_eq_code (s : State) : failed s = decide (sstateCode s.sstate = 7) := by
  unfold failed
  cases s.sstate <;> rfl

/-- Above the low operand of an append stands the high one. -/
theorem getLsbD_append_of_le {n m i : Nat} {x : BitVec n} {y : BitVec m} (h : m ≤ i) :
    (x ++ y).getLsbD i = x.getLsbD (i - m) := by
  rw [BitVec.getLsbD_append, if_neg (Nat.not_lt.mpr h)]

theorem getLsbD_append_bit {n : Nat} {x : BitVec n} {b : Bool} : (x ++ bit b).getLsbD 0 = b := by
  rw [BitVec.getLsbD_append, if_pos Nat.one_pos]
  cases b <;> rfl

/-- The fields of several bits and the reserved ones, each reached by passing over the fields below it (R38). -/
theorem statusWord_fields (s : State) :
    (statusWord s).extractLsb' 0 3 = sstateCode s.sstate ∧ (statusWord s).extractLsb' 3 2 = tstateCode s.tstate ∧
    (statusWord s).extractLsb' 14 2 = 0 ∧ (statusWord s).extractLsb' 16 4 = causeCode s.tres ∧
    (statusWord s).extractLsb' 20 12 = 0 := by
  unfold statusWord
  refine ⟨?_, ?_, ?_, ?_, ?_⟩ <;> repeat refine (BitVec.extractLsb'_append_eq_of_le (by decide)).trans ?_
  case refine_5 => exact BitVec.extractLsb'_eq_self
  all_goals exact BitVec.extractLsb'_append_eq_right

/-- The one-bit fields, reached in the same way (R38). -/
theorem statusWord_bits (s : State) :
    (statusWord s).getLsbD 5 = busy s ∧ (statusWord s).getLsbD 6 = done s ∧ (statusWord s).getLsbD 7 = failed s ∧
    (statusWord s).getLsbD 8 = s.herr ∧ (statusWord s).getLsbD 9 = s.csPh ∧ (statusWord s).getLsbD 10 = s.infoValid ∧
    (statusWord s).getLsbD 11 = s.dOk ∧ (statusWord s).getLsbD 12 = s.dKnown ∧ (statusWord s).getLsbD 13 = csEq s := by
  unfold statusWord
  refine ⟨?_, ?_, ?_, ?_, ?_, ?_, ?_, ?_, ?_⟩ <;> repeat refine (getLsbD_append_of_le (by decide)).trans ?_
  all_goals exact getLsbD_append_bit

theorem zext_bit (b : Bool) : zext (bit b) = if b then 1 else 0 := by cases b <;> rfl

theorem zext_csValue (s : State) : zext (csValue s) = 0#16 ++ s.csA ++ s.csB := by
  rw [BitVec.append_assoc, zext, BitVec.setWidth_eq_append (by decide)]
  rfl

/-- Settles O56: the map entry by entry, and STATUS from its fields. -/
theorem registerMapReads : Obligations.RegisterMapReads := by
  intro s
  obtain ⟨hsess, htxn, hres1, htres, hres2⟩ := statusWord_fields s
  obtain ⟨hbusy, hdone, hfailed, hherr, hph, hvalid, hok, hknown, heq⟩ := statusWord_bits s
  refine ⟨rfl, rfl, rfl, rfl, congrArg some (zext_bit s.wr), congrArg some (zext_csValue s), rfl, rfl, rfl, rfl, rfl, rfl,
    rfl, rfl, rfl, fun k => readReg_fb k s, rfl, rfl, rfl, rfl, rfl, rfl, fun k => readReg_rb k s,
    fun i hi => readReg_unmapped hi s, statusWord s, rfl, hsess, htxn, ?_, ?_, ?_, hherr, hph, hvalid, hok, hknown, ?_,
    hres1, htres, hres2⟩
  · rw [hbusy, busy_eq_codes]
  · rw [hdone, done_eq_code]
  · rw [hfailed, failed_eq_code]
  · rw [heq]
    rfl

end Sys2Proof.Machine
end

section
/-! SUPPORT. The requests of the host: which request a CTRL write is, and the refusal while busy (spec/10_state.md R37,
R44). -/

namespace Sys2Proof.Machine

/-- The requests of CTRL bits 1 to 6, which BUSY refuses; bit 0 is SRST (R37, R44). -/
def guardedStrobes : List Instr := [.start, .cmd, .encodeFrame, .decodeFrame, .csClr, .csRange]

theorem guardedStrobes_cases {i : Instr} (h : i ∈ guardedStrobes) :
    i = .start ∨ i = .cmd ∨ i = .encodeFrame ∨ i = .decodeFrame ∨ i = .csClr ∨ i = .csRange := by
  simpa [guardedStrobes] using h

/-! ## CTRL -/

/-- How many of seven strobes are set. -/
def setBits (w : BitVec 7) : Nat := (List.range 7).countP w.getLsbD

/-- Bits 31:7 of a CTRL value are not counted. -/
theorem strobeCount_eq_setBits (v : Word) : strobeCount v = setBits (v.extractLsb' 0 7) :=
  List.countP_congr fun k hk => by simp [List.mem_range.mp hk]

theorem setBits_eq_zero : ∀ {w : BitVec 7}, setBits w = 0 → w = 0#7 := by decide

theorem setBits_eq_one : ∀ {w : BitVec 7} {k : Fin 7}, setBits w = 1 → w.getLsbD k = true → w = BitVec.twoPow 7 k := by
  decide

theorem setBits_twoPow : ∀ k : Fin 7, setBits (BitVec.twoPow 7 k) = 1 := by decide

theorem ne_zero_of_two_le_setBits {w : BitVec 7} (h : 2 ≤ setBits w) : w ≠ 0#7 := by
  rintro rfl
  exact absurd h (by decide)

theorem ne_twoPow_of_two_le_setBits {w : BitVec 7} (h : 2 ≤ setBits w) (k : Fin 7) : w ≠ BitVec.twoPow 7 k := by
  rintro rfl
  rw [setBits_twoPow] at h
  omega

theorem decodeCtrl_srst {v : Word} (h : v.getLsbD 0 = true) : decodeCtrl v = .ok .srst := by simp [decodeCtrl, h]

/-- Bit 0 of the strobes is bit 0 of the written value. -/
theorem strobes_bit_zero (v : Word) : (v.extractLsb' 0 7).getLsbD 0 = v.getLsbD 0 := by simp

theorem decodeCtrl_none {v : Word} (h : v.extractLsb' 0 7 = 0#7) : decodeCtrl v = .error .noStrobe := by
  have h0 : v.getLsbD 0 = false := by rw [← strobes_bit_zero, h]; rfl
  simp only [decodeCtrl, h0, h, Bool.false_eq_true, if_false]
  rfl

/-- One strobe alone is its own request. -/
theorem decodeCtrl_single {v : Word} (k : Fin 7) (h : v.extractLsb' 0 7 = BitVec.twoPow 7 k) :
    decodeCtrl v = .ok ((.srst :: guardedStrobes)[k]) := by
  have h0 : v.getLsbD 0 = (BitVec.twoPow 7 k).getLsbD 0 := by rw [← strobes_bit_zero, h]
  unfold decodeCtrl
  rw [h0, h]
  fin_cases k <;> rfl

/-- Several strobes without SRST are no request. -/
theorem decodeCtrl_several {v : Word} (h0 : v.getLsbD 0 = false) (h : 2 ≤ setBits (v.extractLsb' 0 7)) :
    decodeCtrl v = .error .severalStrobes := by
  have hone := ne_twoPow_of_two_le_setBits h
  simp only [decodeCtrl, h0, Bool.false_eq_true, if_false]
  exact (if_neg (ne_zero_of_two_le_setBits h)).trans ((if_neg (hone 1)).trans ((if_neg (hone 2)).trans
    ((if_neg (hone 3)).trans ((if_neg (hone 4)).trans ((if_neg (hone 5)).trans (if_neg (hone 6)))))))

/-- A CTRL write that is a request executes it (O47 with the write as the oldest event). -/
theorem step_ctrl_request {v : Word} {i : Instr} (h : decodeCtrl v = .ok i) (rest : List Event) (s : State) :
    step (setPending (.hostWrite ctrlIndex v :: rest) s) = exec i (setPending rest s) :=
  stepRunsTheDecodedRequest s [] rest ctrlIndex v i (by simp) h

/-- Any other CTRL write is the port's own. -/
theorem step_ctrl_other {v : Word} {err : DecodeError} (h : decodeCtrl v = .error err) (rest : List Event) (s : State) :
    step (setPending (.hostWrite ctrlIndex v :: rest) s) = .next (hostWriteOther ctrlIndex v (setPending rest s)) := by
  rw [step_of_enabled rfl]
  simp only [fetch, decodeHostWrite, if_true, h, perform]

/-- Settles O14: the four kinds of written value, each with what the decoder says of it. -/
theorem ctrlWriteSelectsRequest : Obligations.CtrlWriteSelectsRequest := by
  intro s v rest
  rw [strobeCount_eq_setBits]
  refine ⟨fun hc => ?_, fun h0 => step_ctrl_request (decodeCtrl_srst h0) rest s, fun h0 hc => ?_, fun hc k hk => ?_⟩
  · have hw := setBits_eq_zero hc
    exact (step_ctrl_other (decodeCtrl_none hw) rest s).trans (by rw [hostWriteOther_ctrl, if_pos hw]; rfl)
  · have hw := ne_zero_of_two_le_setBits hc
    exact (step_ctrl_other (decodeCtrl_several h0 hc) rest s).trans (by rw [hostWriteOther_ctrl, if_neg hw]; rfl)
  · have hw := setBits_eq_one hc (by simpa using hk)
    exact step_ctrl_request (decodeCtrl_single k hw) rest s

/-! ## The refusal while busy -/

theorem exec_guarded_busy {i : Instr} (hi : i ∈ guardedStrobes) {s : State} (hb : busy s = true) :
    exec i s = .next (refuse s) := by
  rcases guardedStrobes_cases hi with rfl | rfl | rfl | rfl | rfl | rfl
  case inl => exact congrArg Host.Outcome.next (if_pos (.inl hb))
  all_goals exact congrArg Host.Outcome.next (if_pos hb)

theorem exec_csPush_busy (b : Byte) {s : State} (hb : busy s = true) : exec (.csPush b) s = .next (refuse s) :=
  congrArg Host.Outcome.next (if_pos hb)

/-- Settles O21: each guarded request and each RW write is refused, and SRST resets. -/
theorem busyRefusesAllButSrst : Obligations.BusyRefusesAllButSrst := by
  refine fun s hb => ⟨fun i hi => exec_guarded_busy hi hb, fun b => exec_csPush_busy b hb, fun i v hi => ?_, ?_⟩
  · rw [perform, hostWriteOther_readWrite (accessOf_readWrite i hi), if_pos hb]
    rfl
  · exact ⟨resetBlock s, rfl, rfl⟩

/-- A command runs with the opcode of its row, whatever flag its frame carries (30_encoding.md R73, R86). -/
theorem exec_of_commandOf {op : Byte} {size : Half} {addr : Addr} {wr : Bool} {i : Instr}
    (h : commandOf op size addr wr = some i) (s : State) : exec i s = runCommand op size addr s := by
  unfold commandOf at h
  split_ifs at h <;> (cases h; subst op; rfl)

/-- Settles O22: a command is guarded as CMD is, and issues what CMD starts. -/
theorem commandIsOperandsThenCmd : Obligations.CommandIsOperandsThenCmd := by
  intro s op size addr wr i hi
  rw [exec_of_commandOf hi]
  refine ⟨fun hb => ?_, fun hb => ?_⟩
  · rw [runCommand, if_pos hb]
    rfl
  · have hb' : busy (loadOperands op size addr s) = false := hb
    change _ = execCmd (loadOperands op size addr s)
    rw [runCommand, execCmd, hb, hb']
    rfl

end Sys2Proof.Machine
end

section
/-! SUPPORT. What a step leaves alone or ends: HERR stays set until a reset (spec/10_state.md R34), and a bad result ends a
session (spec/43_session_sequencer.md R202). -/

namespace Sys2Proof.Machine

/-! ## The end of a session -/

/-- A running session's phase has the number of its SSTATE (R31). -/
theorem phaseCode_phaseOf {ss : SState} (h : sessionActive ss = true) : phaseCode (phaseOf ss) = sstateCode ss := by
  cases ss with
  | idle | done | failed => cases h
  | query | erase | write | verify | reset => rfl

/-- Settles O36: `complete` with a bad result is the failure entry. -/
theorem failedTransactionEndsSession : Obligations.FailedTransactionEndsSession := by
  refine fun s res hs hres => ⟨?_, phaseCode_phaseOf hs⟩
  rw [complete_of_failure hres, abortTxn, if_pos hs]
  rfl

/-! ## HERR -/

theorem SameAround.herr_eq {s t : State} (h : SameAround s t) : t.herr = s.herr := by
  obtain ⟨-, -, -, -, hherr, -⟩ := h
  exact hherr

/-- The events of a transaction do not write HERR. -/
theorem txDone_herr {s t : State} (h : txDone s = .next t) : t.herr = s.herr := by
  rcases txDone_cases h with ⟨-, hc⟩ | ⟨_, _, -, -, rfl⟩
  · exact (complete_around hc).herr_eq
  · rfl

theorem txAccept_herr {s t : State} (h : txAccept s = .next t) : t.herr = s.herr := by
  rcases txAccept_cases h with ⟨b, -, -, hf⟩ | ⟨b, -, -, hp⟩
  · rcases afterFrameByte_cases hf with ⟨-, rfl⟩ | ⟨-, -, -, rfl⟩ | ⟨-, -, hd⟩
    · rfl
    · rfl
    · exact (txDone_herr hd).trans (acceptByte_herr b s)
  · rcases afterPayloadByte_cases hp with ⟨-, rfl⟩ | ⟨-, hd⟩
    · rfl
    · exact (txDone_herr hd).trans (acceptByte_herr b s)

@[simp] theorem runDecoder_herr (fmt : RespFormat) (s : State) : (runDecoder fmt s).1.herr = s.herr := by
  cases fmt <;> rfl

theorem rxByte_herr {b : Byte} {s t : State} (h : rxByte b s = .next t) : t.herr = s.herr := by
  obtain ⟨k, _, fmt, -, -, -, -, -, ⟨-, rfl⟩ | ⟨-, hc⟩⟩ := rxByte_cases h
  · rfl
  · simpa using (complete_around hc).herr_eq

theorem tick_herr {s t : State} (h : tick s = .next t) : t.herr = s.herr := by
  rcases tick_cases h with ⟨-, rfl⟩ | ⟨-, -, rfl⟩ | ⟨-, -, rfl⟩
  · rfl
  · rfl
  · exact (abortTxn_around .eTimeout (countDown s)).herr_eq

theorem storeOperand_herr (i : Index) (v : Word) (s : State) : (storeOperand i v s).herr = s.herr := by
  unfold storeOperand
  split_ifs <;> rfl

theorem hostWriteOther_herr (i : Index) (v : Word) {s : State} (hs : s.herr = true) :
    (hostWriteOther i v s).herr = true := by
  rcases hostWriteOther_cases i v s with h | h | h <;> rw [h]
  · exact hs
  · rfl
  · rw [storeOperand_herr, hs]

theorem hostRead_herr (i : Index) {s : State} (hs : s.herr = true) : (hostRead i s).herr = true := by
  unfold hostRead
  split
  · exact hs
  · rfl

/-- An event that is no request keeps HERR set or is `Reset`. -/
theorem perform_herr {e : Event} {s t : State} (h : perform e s = .next t) (hs : s.herr = true) :
    t.herr = true ∨ t = resetBlock s := by
  cases e with
  | reset => exact .inr (Host.Outcome.next.inj h).symm
  | hostWrite i v => exact .inl (Host.Outcome.next.inj h ▸ hostWriteOther_herr i v hs)
  | hostRead i => exact .inl (Host.Outcome.next.inj h ▸ hostRead_herr i hs)
  | txAccept => exact .inl ((txAccept_herr h).trans hs)
  | txFail =>
    obtain ⟨-, rfl⟩ := txFail_cases h
    exact .inl ((abortTxn_around .eIoTx s).herr_eq.trans hs)
  | rxByte b => exact .inl ((rxByte_herr h).trans hs)
  | rxError =>
    obtain ⟨-, rfl⟩ := rxError_cases h
    exact .inl ((abortTxn_around .eIoRx s).herr_eq.trans hs)
  | tick => exact .inl ((tick_herr h).trans hs)

theorem decodeCtrl_ok_mem {v : Word} {i : Instr} (h : decodeCtrl v = .ok i) : i ∈ .srst :: guardedStrobes := by
  simp only [decodeCtrl] at h
  split_ifs at h <;> (cases h; decide)

/-- What the host can request. -/
theorem fetch_ok_cases {e : Event} {i : Instr} (h : fetch e = .ok i) :
    i = .srst ∨ i ∈ guardedStrobes ∨ ∃ b, i = .csPush b := by
  cases e with
  | hostWrite j v =>
    simp only [fetch, decodeHostWrite] at h
    split_ifs at h
    · rcases List.mem_cons.mp (decodeCtrl_ok_mem h) with rfl | hi
      · exact .inl rfl
      · exact .inr (.inl hi)
    · exact .inr (.inr ⟨_, (Except.ok.inj h).symm⟩)
  | reset | hostRead | txAccept | txFail | rxByte | rxError | tick => cases h

theorem startSession_herr (s : State) : (startSession s).herr = s.herr := by
  rw [startSession, (issue_around _ _ _ _).herr_eq, enterPhase_herr, setProgress_herr, setOffset_herr, clearFailure_herr]

theorem csPushByte_herr (s : State) (b : Byte) : (csPushByte s b).herr = s.herr := by
  rw [csPushByte_frame]

theorem csPushAll_herr (bs : List Byte) (s : State) : (csPushAll bs s).herr = s.herr :=
  csPushAll_keeps (·.herr) (fun _ _ _ _ _ => rfl) bs s

/-- A refusal sets HERR, so a guarded rule leaves it set when the rule itself does. -/
theorem herr_of_guard {c : Prop} [Decidable c] {s t : State} (ht : t.herr = true) :
    (if c then refuse s else t).herr = true := by
  split_ifs
  · rfl
  · exact ht

/-- A guarded request keeps HERR set. -/
theorem exec_guarded_herr {i : Instr} (hi : i ∈ guardedStrobes) {s t : State} (h : exec i s = .next t)
    (hs : s.herr = true) : t.herr = true := by
  rcases guardedStrobes_cases hi with rfl | rfl | rfl | rfl | rfl | rfl <;> obtain rfl := Host.Outcome.next.inj h
  · exact herr_of_guard ((startSession_herr s).trans hs)
  · exact herr_of_guard ((startTxn_around s).herr_eq.trans hs)
  · exact herr_of_guard ((buildFrame_herr s).trans hs)
  · exact herr_of_guard ((takeFrame_herr s).trans hs)
  · exact herr_of_guard ((csClear_herr s).trans hs)
  · refine herr_of_guard ?_
    split_ifs
    · exact (csPushAll_herr _ s).trans hs
    · rfl

theorem exec_csPush_herr {b : Byte} {s t : State} (h : exec (.csPush b) s = .next t) (hs : s.herr = true) :
    t.herr = true := by
  obtain rfl := Host.Outcome.next.inj h
  exact herr_of_guard ((csPushByte_herr s b).trans hs)

/-- A request keeps HERR set or is SRST. -/
theorem exec_request_herr {e : Event} {i : Instr} (hf : fetch e = .ok i) {s t : State} (h : exec i s = .next t)
    (hs : s.herr = true) : t.herr = true ∨ t = resetBlock s := by
  rcases fetch_ok_cases hf with rfl | hi | ⟨b, rfl⟩
  · exact .inr (Host.Outcome.next.inj h).symm
  · exact .inl (exec_guarded_herr hi h hs)
  · exact .inl (exec_csPush_herr h hs)

/-- In every step HERR stays set, or the step is a reset (R34). -/
theorem step_herr {s t : State} (h : step s = .next t) (hs : s.herr = true) :
    t.herr = true ∨ t = resetBlock (setPending t.pending s) := by
  have hreset {rest : List Event} (hc : t.herr = true ∨ t = resetBlock (setPending rest s)) :
      t.herr = true ∨ t = resetBlock (setPending t.pending s) :=
    hc.imp_right fun ht => by rw [ht]; rfl
  rcases step_cases s with ⟨-, hstep⟩ | ⟨_, rest, i, -, hf, hstep⟩ | ⟨_, rest, _, -, -, hstep⟩ <;> rw [hstep] at h
  · cases h
    exact .inl hs
  · exact hreset (exec_request_herr hf h hs)
  · exact hreset (perform_herr h hs)

/-- Settles O59: the port refuses what it cannot write, and no rule but reset clears HERR. -/
theorem refusalsSetStickyHerr : Obligations.RefusalsSetStickyHerr := by
  refine ⟨fun s i v hi => ?_, fun s t => step_herr⟩
  rw [perform, hostWriteOther_refused (accessOf_refused i hi)]
  rfl

end Sys2Proof.Machine
end

section
/-! SUPPORT. What stands outside the block: a response the block is not ready for waits in the channel, the output grows
by the accepted bytes, and the one write to IMG is the sentinel's (spec/20_memory.md R52, R55, R56). -/

namespace Sys2Proof.Machine

/-! ## The channel -/

/-- A block that is not in a receive wait takes none of the bytes. -/
theorem takeResponse_of_not_rx {s : State} (hs : s.tstate ≠ .rx) (bs : List Byte) :
    takeResponse bs s = .next (arrive bs s) := by
  have hall : stillToCome bs s = bs := if_neg fun h => hs h.1
  rw [takeResponse, hall]
  cases bs with
  | nil => simp [rxBytes, arrive, setPending]
  | cons b bs => rw [rxBytes, if_neg hs]

/-- Settles O33: the decoded response delivers its bytes, and the block takes none of them. -/
theorem unawaitedResponseStaysInChannel : Obligations.UnawaitedResponseStaysInChannel := by
  intro s i fmt bs hs hd
  obtain ⟨-, hexec⟩ := decodeResponse_ok hd
  rw [hexec, takeResponse_of_not_rx hs]
  rfl

/-! ## What keeps IMG and the output -/

/-- IMG and the bytes sent. -/
def imgAndSent (s : State) : Memory × List Byte := (s.img, s.sent)

theorem SameAround.sent_eq {s t : State} (h : SameAround s t) : t.sent = s.sent := by
  obtain ⟨-, hsent, -⟩ := h
  exact hsent

theorem startTxn_imgAndSent (s : State) : imgAndSent (startTxn s) = imgAndSent s :=
  Prod.ext (startTxn_img s) (startTxn_around s).sent_eq

theorem startSession_imgAndSent (s : State) : imgAndSent (startSession s) = imgAndSent s := by
  rw [startSession, issue, startTxn_imgAndSent]
  simp [imgAndSent]

theorem abortTxn_imgAndSent (res : Cause) (s : State) : imgAndSent (abortTxn res s) = imgAndSent s :=
  Prod.ext (abortTxn_img res s) (abortTxn_around res s).sent_eq

theorem csPushAll_imgAndSent (bs : List Byte) (s : State) : imgAndSent (csPushAll bs s) = imgAndSent s :=
  csPushAll_keeps imgAndSent (fun _ _ _ _ _ => rfl) bs s

/-- A refusal keeps both, so a guarded rule does when the rule itself does. -/
theorem imgAndSent_of_guard {c : Prop} [Decidable c] {s t : State} (ht : imgAndSent t = imgAndSent s) :
    imgAndSent (if c then refuse s else t) = imgAndSent s := by
  split_ifs
  · rfl
  · exact ht

theorem exec_guarded_imgAndSent {i : Instr} (hi : i ∈ guardedStrobes) {s t : State} (h : exec i s = .next t) :
    imgAndSent t = imgAndSent s := by
  rcases guardedStrobes_cases hi with rfl | rfl | rfl | rfl | rfl | rfl <;> obtain rfl := Host.Outcome.next.inj h
  · exact imgAndSent_of_guard (startSession_imgAndSent s)
  · exact imgAndSent_of_guard (startTxn_imgAndSent s)
  · exact imgAndSent_of_guard rfl
  · exact imgAndSent_of_guard rfl
  · exact imgAndSent_of_guard rfl
  · refine imgAndSent_of_guard ?_
    split_ifs
    · exact csPushAll_imgAndSent _ s
    · rfl

/-- No request of the host writes IMG or sends a byte by itself. -/
theorem exec_request_imgAndSent {e : Event} {i : Instr} (hf : fetch e = .ok i) {s t : State}
    (h : exec i s = .next t) : imgAndSent t = imgAndSent s := by
  rcases fetch_ok_cases hf with rfl | hi | ⟨b, rfl⟩
  · obtain rfl := Host.Outcome.next.inj h
    rfl
  · exact exec_guarded_imgAndSent hi h
  · obtain rfl := Host.Outcome.next.inj h
    exact imgAndSent_of_guard (csPushAll_imgAndSent [b] s)

theorem storeOperand_imgAndSent (i : Index) (v : Word) (s : State) :
    imgAndSent (storeOperand i v s) = imgAndSent s := by
  unfold storeOperand
  split_ifs <;> rfl

theorem hostWriteOther_imgAndSent (i : Index) (v : Word) (s : State) :
    imgAndSent (hostWriteOther i v s) = imgAndSent s := by
  rcases hostWriteOther_cases i v s with h | h | h <;> rw [h]
  · rfl
  · exact storeOperand_imgAndSent i v s

theorem hostRead_imgAndSent (i : Index) (s : State) : imgAndSent (hostRead i s) = imgAndSent s := by
  unfold hostRead
  split <;> rfl

theorem tick_imgAndSent {s t : State} (h : tick s = .next t) : imgAndSent t = imgAndSent s := by
  rcases tick_cases h with ⟨-, rfl⟩ | ⟨-, -, rfl⟩ | ⟨-, -, rfl⟩
  · rfl
  · rfl
  · exact abortTxn_imgAndSent .eTimeout (countDown s)

/-- Only a byte the channel takes or delivers can bring a write to IMG or a longer output. -/
theorem perform_imgAndSent {e : Event} {s t : State} (h : perform e s = .next t) :
    imgAndSent t = imgAndSent s ∨ (e = .txAccept ∧ txAccept s = .next t) ∨ ∃ b, rxByte b s = .next t := by
  cases e with
  | reset => exact .inl (Host.Outcome.next.inj h ▸ rfl)
  | hostWrite i v => exact .inl (Host.Outcome.next.inj h ▸ hostWriteOther_imgAndSent i v s)
  | hostRead i => exact .inl (Host.Outcome.next.inj h ▸ hostRead_imgAndSent i s)
  | txAccept => exact .inr (.inl ⟨rfl, h⟩)
  | txFail =>
    obtain ⟨-, rfl⟩ := txFail_cases h
    exact .inl (abortTxn_imgAndSent .eIoTx s)
  | rxByte b => exact .inr (.inr ⟨b, h⟩)
  | rxError =>
    obtain ⟨-, rfl⟩ := rxError_cases h
    exact .inl (abortTxn_imgAndSent .eIoRx s)
  | tick => exact .inl (tick_imgAndSent h)

/-- A step keeps IMG and the output, or it is a `TxAccept` or an `RxByte`. -/
theorem step_imgAndSent {s t : State} (h : step s = .next t) :
    imgAndSent t = imgAndSent s ∨
    (∃ rest, oldestEnabled s s.pending = some (.txAccept, rest) ∧ txAccept (setPending rest s) = .next t) ∨
    (∃ b rest, rxByte b (setPending rest s) = .next t) := by
  rcases step_cases s with ⟨-, hstep⟩ | ⟨e, rest, i, -, hf, hstep⟩ | ⟨e, rest, _, ho, -, hstep⟩ <;> rw [hstep] at h
  · exact .inl (Host.Outcome.next.inj h ▸ rfl)
  · exact .inl ((exec_request_imgAndSent hf h).trans rfl)
  · rcases perform_imgAndSent h with heq | ⟨rfl, htx⟩ | ⟨b, hrx⟩
    · exact .inl heq
    · exact .inr (.inl ⟨rest, ho, htx⟩)
    · exact .inr (.inr ⟨b, rest, hrx⟩)

/-! ## The output -/

theorem txDone_sent {s t : State} (h : txDone s = .next t) : t.sent = s.sent := by
  rcases txDone_cases h with ⟨-, hc⟩ | ⟨_, _, -, -, rfl⟩
  · exact (complete_around hc).sent_eq
  · rfl

/-- `TxAccept` appends the offered byte, whatever follows (R55). -/
theorem txAccept_sent {s t : State} (h : txAccept s = .next t) : ∃ b, txByte s = some b ∧ t.sent = s.sent ++ [b] := by
  rcases txAccept_cases h with ⟨b, -, hb, hf⟩ | ⟨b, -, hb, hp⟩ <;> refine ⟨b, hb, ?_⟩
  · rcases afterFrameByte_cases hf with ⟨-, rfl⟩ | ⟨-, -, -, rfl⟩ | ⟨-, -, hd⟩
    · rfl
    · rfl
    · exact txDone_sent hd
  · rcases afterPayloadByte_cases hp with ⟨-, rfl⟩ | ⟨-, hd⟩
    · rfl
    · exact txDone_sent hd

@[simp] theorem runDecoder_sent (fmt : RespFormat) (s : State) : (runDecoder fmt s).1.sent = s.sent := by
  cases fmt <;> rfl

theorem rxByte_sent {b : Byte} {s t : State} (h : rxByte b s = .next t) : t.sent = s.sent := by
  obtain ⟨k, _, fmt, -, -, -, -, -, ⟨-, rfl⟩ | ⟨-, hc⟩⟩ := rxByte_cases h
  · rfl
  · simpa using (complete_around hc).sent_eq

/-- Settles O54: of the rules only `TxAccept`'s writes the output. -/
theorem outputIsTheAcceptedBytes : Obligations.OutputIsTheAcceptedBytes := by
  intro s t h
  rcases step_imgAndSent h with heq | ⟨rest, ho, htx⟩ | ⟨b, rest, hrx⟩
  · exact .inl (congrArg Prod.snd heq)
  · obtain ⟨b, hb, hsent⟩ := txAccept_sent htx
    exact .inr ⟨b, rest, ho, hb, hsent⟩
  · exact .inl ((rxByte_sent hrx).trans (setPending_sent rest s))

/-! ## The sentinel -/

/-- IMG stays, or the session moves from the erase to the write phase and the sentinel is written (R52,
43_session_sequencer.md R205). -/
def ImgMove (s t : State) : Prop :=
  t.img = s.img ∨ (s.sstate = .erase ∧ t.sstate = .write ∧ t.img = cellWrite s.img 0x1FFFF 0x55)

/-- Of the state before, IMG and the phase tell whether the move is one. -/
theorem ImgMove.of_eq {s s' t : State} (h : ImgMove s' t) (himg : s'.img = s.img) (hphase : s'.sstate = s.sstate) :
    ImgMove s t := by
  rwa [ImgMove, himg, hphase] at h

/-- The first page lies in the image, so it is issued and does not fail. -/
theorem issuePage_firstPage (s : State) :
    issuePage (firstPage s) = launch (loadOperands 0x02 0x0080 0x000800 (firstPage s)) :=
  startTxn_launch (s := loadOperands 0x02 0x0080 0x000800 (firstPage s)) rfl fun _ => rfl

/-- The good end of the erase is the move to the first page. -/
theorem complete_good_erase {s : State} (hs : s.sstate = .erase) :
    complete .eNone s = .next (issuePage (firstPage (endTxn .eNone s))) := by
  rw [complete_of_active (by rw [hs]; rfl), seqAdvance, endTxn_sstate, hs]
  rfl

theorem complete_imgMove {res : Cause} {s t : State} (h : complete res s = .next t) : ImgMove s t := by
  refine (complete_img h).imp_right fun ⟨hs, hres, himg⟩ => ⟨hs, ?_, himg⟩
  rw [hres, complete_good_erase hs, issuePage_firstPage] at h
  rw [← Host.Outcome.next.inj h]
  rfl

theorem txDone_imgMove {s t : State} (h : txDone s = .next t) : ImgMove s t := by
  rcases txDone_cases h with ⟨-, hc⟩ | ⟨_, _, -, -, rfl⟩
  · exact complete_imgMove hc
  · exact .inl rfl

theorem txAccept_imgMove {s t : State} (h : txAccept s = .next t) : ImgMove s t := by
  rcases txAccept_cases h with ⟨b, -, -, hf⟩ | ⟨b, -, -, hp⟩
  · rcases afterFrameByte_cases hf with ⟨-, rfl⟩ | ⟨-, -, -, rfl⟩ | ⟨-, -, hd⟩
    · exact .inl rfl
    · exact .inl rfl
    · exact (txDone_imgMove hd).of_eq rfl rfl
  · rcases afterPayloadByte_cases hp with ⟨-, rfl⟩ | ⟨-, hd⟩
    · exact .inl rfl
    · exact (txDone_imgMove hd).of_eq rfl rfl

theorem rxByte_imgMove {b : Byte} {s t : State} (h : rxByte b s = .next t) : ImgMove s t := by
  obtain ⟨k, _, fmt, -, -, -, -, -, ⟨-, rfl⟩ | ⟨-, hc⟩⟩ := rxByte_cases h
  · exact .inl rfl
  · exact (complete_imgMove hc).of_eq (by cases fmt <;> rfl) (by cases fmt <;> rfl)

theorem step_imgMove {s t : State} (h : step s = .next t) : ImgMove s t := by
  rcases step_imgAndSent h with heq | ⟨rest, -, htx⟩ | ⟨b, rest, hrx⟩
  · exact .inl (congrArg Prod.fst heq)
  · exact (txAccept_imgMove htx).of_eq rfl rfl
  · exact (rxByte_imgMove hrx).of_eq rfl rfl

/-- Settles O53: a step that changes IMG writes the sentinel's one cell. -/
theorem imageWrittenOnlyWithSentinel : Obligations.ImageWrittenOnlyWithSentinel := by
  intro s t h
  refine (step_imgMove h).imp_right fun ⟨hs, ht, himg⟩ => ⟨hs, ht, fun hwf => ?_, fun a ha => ?_⟩
  · rw [himg, cellRead_cellWrite_same hwf]
  · rw [himg, cellRead_cellWrite_other _ ha]

end Sys2Proof.Machine
end

section
/-! SUPPORT. The decoder against the encoder: a field is its bytes, a frame is the fields DECODE recovers, and a response
is its header and its fields (spec/30_encoding.md R70 to R76, 41_frame_codec.md R123). -/

namespace Sys2Proof.Machine

/-! ## A field from its bytes -/

@[simp] theorem pair_hiByte_loByte (v : Half) : pair (hiByte v) (loByte v) = v := BitVec.extractLsb'_append_extractLsb'

@[simp] theorem addrOf_addrByte (a : Addr) : addrOf (addrByte a 2) (addrByte a 1) (addrByte a 0) = a := by
  have hhigh : addrByte a 2 ++ addrByte a 1 = a.extractLsb' 8 16 :=
    BitVec.extractLsb'_append_extractLsb'_eq_extractLsb' rfl
  rw [addrOf, hhigh]
  exact BitVec.extractLsb'_append_extractLsb'

@[simp] theorem wordOf_wordByte (w : Word) : wordOf (wordByte w 3) (wordByte w 2) (wordByte w 1) (wordByte w 0) = w := by
  have hhigh : wordByte w 3 ++ wordByte w 2 = w.extractLsb' 16 16 :=
    BitVec.extractLsb'_append_extractLsb'_eq_extractLsb' rfl
  have hmid : w.extractLsb' 16 16 ++ wordByte w 1 = w.extractLsb' 8 24 :=
    BitVec.extractLsb'_append_extractLsb'_eq_extractLsb' rfl
  rw [wordOf, hhigh, hmid]
  exact BitVec.extractLsb'_append_extractLsb'

@[simp] theorem addrByte_addrOf_zero (hi mid lo : Byte) : addrByte (addrOf hi mid lo) 0 = lo :=
  BitVec.extractLsb'_append_eq_right

@[simp] theorem addrByte_addrOf_one (hi mid lo : Byte) : addrByte (addrOf hi mid lo) 1 = mid :=
  (BitVec.extractLsb'_append_eq_of_le (by decide)).trans BitVec.extractLsb'_append_eq_right

@[simp] theorem addrByte_addrOf_two (hi mid lo : Byte) : addrByte (addrOf hi mid lo) 2 = hi :=
  (BitVec.extractLsb'_append_eq_of_le (by decide)).trans BitVec.extractLsb'_append_eq_left

/-! ## Frames -/

/-- The two magic bytes tell the write flag they were built from (R71). -/
theorem magicWrites_of_flag (wr : Bool) :
    magicWrites (if wr then Config.magicLo else 0x00) (if wr then Config.magicHi else 0x00) = wr := by
  cases wr <;> rfl

/-- DECODE recovers the operands of a built frame and finds it well formed (R123, R127). -/
theorem decodeCmd_frameOf (op : Byte) (size : Half) (addr : Addr) (wr : Bool) :
    decodeCmd (frameOf op size addr wr) = ⟨op, size, addr, wr, true, knownOpcode op⟩ := by
  rw [decodeCmd, DecodedFrame.mk.injEq]
  exact ⟨rfl, pair_hiByte_loByte size, addrOf_addrByte addr, magicWrites_of_flag wr, by cases wr <;> rfl, rfl⟩

/-- A frame is its ten bytes. -/
theorem frame_eq_bytes (f : Frame) : f = #v[f[0], f[1], f[2], f[3], f[4], f[5], f[6], f[7], f[8], f[9]] :=
  Vector.ext fun i hi => by interval_cases i <;> rfl

/-- D_OK in terms of the bytes (R123). -/
theorem decodeCmd_ok_iff (f : Frame) :
    (decodeCmd f).ok = true ↔ f[0] = Config.autobaud ∧ f[9] = Config.pad ∧
      (magicWrites f[4] f[5] = true ∨ magicReads f[4] f[5] = true) := by
  simp [decodeCmd, and_assoc]

theorem magicWrites_iff {f4 f5 : Byte} : magicWrites f4 f5 = true ↔ f4 = Config.magicLo ∧ f5 = Config.magicHi := by
  simp only [magicWrites, Bool.and_eq_true, beq_iff_eq]

theorem magicReads_iff {f4 f5 : Byte} : magicReads f4 f5 = true ↔ f4 = 0x00 ∧ f5 = 0x00 := by
  simp only [magicReads, Bool.and_eq_true, beq_iff_eq]

/-- The magic bytes of a well-formed frame are those of its flag. -/
theorem magic_of_flag {f4 f5 : Byte} (h : magicWrites f4 f5 = true ∨ magicReads f4 f5 = true) :
    (if magicWrites f4 f5 then Config.magicLo else 0x00) = f4 ∧
      (if magicWrites f4 f5 then Config.magicHi else 0x00) = f5 := by
  rcases h with h | h
  · obtain ⟨rfl, rfl⟩ := magicWrites_iff.mp h
    exact ⟨rfl, rfl⟩
  · obtain ⟨rfl, rfl⟩ := magicReads_iff.mp h
    exact ⟨rfl, rfl⟩

/-- A frame that DECODE finds well formed is built from the fields it recovers (R127). -/
theorem frameOf_decodeCmd {f : Frame} (h : (decodeCmd f).ok = true) :
    frameOf (decodeCmd f).op (decodeCmd f).size (decodeCmd f).addr (decodeCmd f).wr = f := by
  obtain ⟨hbaud, hpad, hmagic⟩ := (decodeCmd_ok_iff f).mp h
  obtain ⟨hlo, hhi⟩ := magic_of_flag hmagic
  conv_rhs => rw [frame_eq_bytes f]
  simp only [frameOf, decodeCmd, loByte_pair, hiByte_pair, addrByte_addrOf_zero, addrByte_addrOf_one,
    addrByte_addrOf_two, hlo, hhi, hbaud, hpad]

/-- The frames that decode, and to what: well formed, and of a command of R72. -/
theorem decodeCommand_eq_ok_iff {f : Frame} {i : Instr} :
    decodeCommand f = .ok i ↔ (decodeCmd f).ok = true ∧
      commandOf (decodeCmd f).op (decodeCmd f).size (decodeCmd f).addr (decodeCmd f).wr = some i := by
  rw [decodeCmd_ok_iff, decodeCommand]
  split_ifs with hbaud hpad hmagic
  · simp [hbaud]
  · simp [hpad]
  · have hno : ¬(magicWrites f[4] f[5] = true ∨ magicReads f[4] f[5] = true) := by
      simpa only [Bool.not_eq_true', Bool.or_eq_false_iff, not_or, Bool.not_eq_true] using hmagic
    simp only [hno, and_false, false_and]
  · have hok : magicWrites f[4] f[5] = true ∨ magicReads f[4] f[5] = true := by
      simpa only [Bool.not_eq_true', Bool.not_eq_false, Bool.or_eq_true] using hmagic
    simp only [not_not.mp hbaud, not_not.mp hpad, hok, true_and]
    change _ ↔ commandOf f[1] (pair f[3] f[2]) (addrOf f[8] f[7] f[6]) (magicWrites f[4] f[5]) = some i
    cases commandOf f[1] (pair f[3] f[2]) (addrOf f[8] f[7] f[6]) (magicWrites f[4] f[5]) <;> simp

theorem decodeFrameBytes_toList (f : Frame) : decodeFrameBytes f.toList = decodeCommand f := by
  rw [frame_eq_bytes f]
  rfl

/-- Bytes that decode are the ten bytes of a frame. -/
theorem exists_frame_of_decodeFrameBytes {bs : List Byte} {i : Instr} (h : decodeFrameBytes bs = .ok i) :
    ∃ f : Frame, bs = f.toList ∧ decodeCommand f = .ok i := by
  unfold decodeFrameBytes at h
  split at h
  · exact ⟨_, rfl, h⟩
  · cases h

/-- A command is encoded by the frame of its opcode and operands, and it is well formed. -/
theorem encode_of_commandOf {op : Byte} {size : Half} {addr : Addr} {wr : Bool} {i : Instr}
    (h : commandOf op size addr wr = some i) :
    encode i = .frame (frameOf op size addr wr).toList ∧ WellFormed i = true := by
  unfold commandOf at h
  split_ifs at h <;> (cases h; subst op; exact ⟨rfl, rfl⟩)

/-- The opcodes that have a command are those D_KNOWN reports. -/
theorem exists_commandOf_iff (op : Byte) (size : Half) (addr : Addr) (wr : Bool) :
    (∃ i, commandOf op size addr wr = some i) ↔ knownOpcode op = true := by
  unfold commandOf knownOpcode
  split_ifs <;> simp_all

theorem decode_frameOf {op : Byte} {size : Half} {addr : Addr} {wr : Bool} {i : Instr}
    (h : commandOf op size addr wr = some i) : decode (.frame (frameOf op size addr wr).toList) = .ok i := by
  rw [decode, decodeFrameBytes_toList, decodeCommand_eq_ok_iff, decodeCmd_frameOf]
  exact ⟨rfl, h⟩

/-! ## Responses -/

theorem headerOk_iff (header : List Byte) : headerOk header = true ↔ header.length = 10 := beq_iff_eq

/-- Ten header bytes are split off again. -/
theorem take_drop_header {header : List Byte} (h : headerOk header = true) (tail : List Byte) :
    (header ++ tail).take Config.frameLen = header ∧ (header ++ tail).drop Config.frameLen = tail :=
  ⟨List.take_left' ((headerOk_iff header).mp h), List.drop_left' ((headerOk_iff header).mp h)⟩

theorem decodeResponse_versionBytes {header : List Byte} (h : headerOk header = true)
    (version maxPkt unused14 devId unused18 : Half) (row latch : Byte) (cfg : Word) :
    decodeResponse .version (versionBytes header version maxPkt unused14 devId unused18 row latch cfg) =
      .ok (.respVersion header version maxPkt unused14 devId unused18 row latch cfg) := by
  obtain ⟨htake, hdrop⟩ := take_drop_header h [hiByte version, loByte version, hiByte maxPkt, loByte maxPkt,
    hiByte unused14, loByte unused14, hiByte devId, loByte devId, hiByte unused18, loByte unused18, row, latch,
    wordByte cfg 3, wordByte cfg 2, wordByte cfg 1, wordByte cfg 0]
  simp [decodeResponse, versionBytes, htake, hdrop]

theorem decodeResponse_statusBytes {header : List Byte} (h : headerOk header = true) (status : Byte) :
    decodeResponse .status (statusBytes header status) = .ok (.respStatus header status) := by
  obtain ⟨htake, hdrop⟩ := take_drop_header h [status]
  simp [decodeResponse, statusBytes, htake, hdrop]

theorem decodeResponse_csumBytes {header : List Byte} (h : headerOk header = true) (csum : Half) :
    decodeResponse .csum (csumBytes header csum) = .ok (.respChecksum header csum) := by
  obtain ⟨htake, hdrop⟩ := take_drop_header h [hiByte csum, loByte csum]
  simp [decodeResponse, csumBytes, htake, hdrop]

/-- A response that decodes is the encoding of what it decodes to: ten header bytes and the fields behind them. -/
theorem encode_of_decodeResponse {fmt : RespFormat} {bs : List Byte} {i : Instr} (h : decodeResponse fmt bs = .ok i) :
    encode i = .response fmt bs ∧ WellFormed i = true := by
  unfold decodeResponse at h
  split at h
  case h_4 => cases h
  all_goals
    next hd =>
      have hsplit := List.take_append_drop Config.frameLen bs
      have hlen := congrArg List.length hd
      rw [hd] at hsplit
      cases h
      simp [Config.frameLen] at hlen hsplit
      simp [encode, versionBytes, statusBytes, csumBytes, WellFormed, headerOk, Config.frameLen, hsplit]
      omega

/-! ## The decoder and the encoder -/

/-- Settles O11: a command by its frame, a response by its header and fields, a request by its one written value. -/
theorem decodeOfEncode : Obligations.DecodeOfEncode := by
  intro i hwf
  cases i with
  | getVersion => exact decode_frameOf (op := 0x00) rfl
  | flashRead => exact decode_frameOf (op := 0x01) rfl
  | flashWrite => exact decode_frameOf (op := 0x02) rfl
  | flashErase => exact decode_frameOf (op := 0x03) rfl
  | configRead => exact decode_frameOf (op := 0x06) rfl
  | configWrite => exact decode_frameOf (op := 0x07) rfl
  | checksum => exact decode_frameOf (op := 0x08) rfl
  | reset => exact decode_frameOf (op := 0x09) rfl
  | respVersion => exact decodeResponse_versionBytes hwf ..
  | respStatus => exact decodeResponse_statusBytes hwf _
  | respChecksum => exact decodeResponse_csumBytes hwf _
  | srst | start | cmd | encodeFrame | decodeFrame | csClr | csRange => rfl
  | csPush b =>
    have hbyte : (b.setWidth 32).extractLsb' 0 8 = b :=
      (BitVec.extractLsb'_setWidth_of_le (by decide)).trans BitVec.extractLsb'_eq_self
    exact congrArg (fun c => Except.ok (Instr.csPush c)) hbyte

/-- Settles O12: a frame that decodes is well formed, so the fields DECODE recovers build it; a response is its header and
its fields. -/
theorem encodeOfDecode : Obligations.EncodeOfDecode := by
  refine ⟨fun bs i h => ?_, fun fmt bs i h => encode_of_decodeResponse h, fun f => ?_⟩
  · obtain ⟨f, rfl, hf⟩ := exists_frame_of_decodeFrameBytes h
    obtain ⟨hok, hcmd⟩ := decodeCommand_eq_ok_iff.mp hf
    have henc := encode_of_commandOf hcmd
    rwa [frameOf_decodeCmd hok] at henc
  · simp only [decode, decodeFrameBytes_toList, decodeCommand_eq_ok_iff, exists_and_left, exists_commandOf_iff]
    rfl

/-- Settles O13: closed words, evaluated. -/
theorem writtenOutWordsDecode : Obligations.WrittenOutWordsDecode := by
  unfold Obligations.WrittenOutWordsDecode
  decide

end Sys2Proof.Machine
end

section
/-! SUPPORT. A whole response in a receive wait: the bytes stored in RB, the fields the decoders find there, and the end of
the transaction outside a session (spec/41_frame_codec.md R124 to R126, 42_bootloader_commands.md R150, R152). -/

namespace Sys2Proof.Machine

/-! ## The response buffer -/

/-- Bytes stored from an index upward replace as many bytes of RB. -/
theorem storeFrom_toList (bs : List Byte) {rb : RespBuf} {k : Nat} (h : k + bs.length ≤ 26) :
    (storeFrom rb k bs).toList = rb.toList.take k ++ bs ++ rb.toList.drop (k + bs.length) := by
  induction bs generalizing rb k with
  | nil => simp [storeFrom]
  | cons b bs ih =>
    rw [List.length_cons] at h
    have hset : (rb.setIfInBounds k b).toList = (rb.toList.take k ++ [b]) ++ rb.toList.drop (k + 1) := by
      rw [Vector.toList_setIfInBounds, List.set_eq_take_append_cons_drop, if_pos (by rw [Vector.length_toList]; omega)]
      simp
    have hfront : (rb.toList.take k ++ [b]).length = k + 1 := by
      simp
      omega
    rw [storeFrom, ih (by omega), hset, List.take_left' hfront, ← List.drop_drop, List.drop_left' hfront, List.drop_drop,
      List.length_cons, Nat.add_comm bs.length, Nat.add_assoc]
    simp

/-- A byte of RB behind ten header bytes. -/
theorem rb_field {rb : RespBuf} {header tail : List Byte} (h : rb.toList = header ++ tail) (hlen : header.length = 10)
    (j : Nat) {b : Byte} (hb : tail[j]? = some b) (hj : 10 + j < 26 := by decide) : rb[10 + j] = b := by
  have hget : rb.toList[10 + j]? = some b := by rw [h, ← hlen, List.getElem?_append_right (by omega)]; simpa using hb
  obtain ⟨hin, heq⟩ := List.getElem?_eq_some_iff.mp hget
  exact heq

/-- A big-endian field of two bytes. -/
theorem rb_pair {rb : RespBuf} {header tail : List Byte} (h : rb.toList = header ++ tail) (hlen : header.length = 10)
    (j : Nat) {v : Half} (hhi : tail[j]? = some (hiByte v)) (hlo : tail[j + 1]? = some (loByte v))
    (hj : 10 + (j + 1) < 26 := by decide) : pair rb[10 + j] rb[10 + (j + 1)] = v := by
  rw [rb_field h hlen j hhi (by omega), rb_field h hlen (j + 1) hlo hj, pair_hiByte_loByte]

/-! ## Receiving every byte -/

/-- The bytes of a receive wait, each stored by `RxByte` (R150). -/
def storeBytes (k : Nat) (bs : List Byte) (s : State) : State := bs.foldl (fun t b => storeByte b k t) s

@[simp] theorem storeBytes_nil (k : Nat) (s : State) : storeBytes k [] s = s := rfl

@[simp] theorem storeBytes_cons (k : Nat) (b : Byte) (bs : List Byte) (s : State) :
    storeBytes k (b :: bs) s = storeBytes k bs (storeByte b k s) := rfl

/-- They stand in RB one behind the other, are counted, and reload the timer; nothing else changes. -/
theorem storeBytes_eq (k : Nat) {bs : List Byte} {s : State} (hne : bs ≠ []) (hfit : s.rcnt.toNat + bs.length ≤ 26) :
    storeBytes k bs s = { s with
      rb := storeFrom s.rb s.rcnt.toNat bs, rcnt := s.rcnt + BitVec.ofNat 5 bs.length, timer := BitVec.ofNat 13 k } := by
  induction bs generalizing s with
  | nil => exact absurd rfl hne
  | cons b bs ih =>
    cases bs with
    | nil => rfl
    | cons b' bs =>
      have hcount : (storeByte b k s).rcnt.toNat = s.rcnt.toNat + 1 := by
        simp at hfit ⊢
        omega
      have hsum : s.rcnt + 1 + BitVec.ofNat 5 (b' :: bs).length = s.rcnt + BitVec.ofNat 5 (b :: b' :: bs).length := by
        rw [BitVec.add_assoc]
        congr 1
        exact (BitVec.ofNat_add_ofNat ..).trans (by rw [List.length_cons (a := b), Nat.add_comm])
      rw [storeBytes_cons, ih (by simp) (by simp at hfit hcount ⊢; omega), hcount, storeByte_rcnt, hsum]
      rfl

/-- The last byte of a response runs the decoder and ends the transaction (R150). -/
theorem rxByte_of_last {s : State} {fmt : RespFormat} {k : Nat} (hs : s.tstate = .rx)
    (hf : respFormat s.op = some fmt) (hk : timeoutTicks s.op = some k) (hm : s.rcnt.toNat + 1 = fmt.length) (b : Byte) :
    rxByte b s = complete (runDecoder fmt (storeByte b k s)).2 (runDecoder fmt (storeByte b k s)).1 := by
  obtain ⟨-, -, hn⟩ := respFormat_eq_some hf
  have hle := respFormat_length_le fmt
  have hlt : s.rcnt.toNat < Config.verRespLen := by omega
  have heq : (storeByte b k s).rcnt.toNat = fmt.length := by
    simp [Config.verRespLen] at hle ⊢
    omega
  simp only [rxByte, hs, hlt, hk, afterRxByte, storeByte_op, hn, hf, heq, if_true]

/-- Delivering one byte to a receive wait is its `RxByte`. -/
theorem rxBytes_singleton {s : State} (hs : s.tstate = .rx) (b : Byte) : rxBytes [b] s = rxByte b s := by
  rw [rxBytes, if_pos hs]
  cases rxByte b s <;> rfl

/-- The bytes still due in a receive wait are stored, and then the decoder runs. -/
theorem rxBytes_of_due {fmt : RespFormat} {k : Nat} {bs : List Byte} {s : State} (hs : s.tstate = .rx)
    (hf : respFormat s.op = some fmt) (hk : timeoutTicks s.op = some k) (hne : bs ≠ [])
    (hc : s.rcnt.toNat + bs.length = fmt.length) :
    rxBytes bs s = complete (runDecoder fmt (storeBytes k bs s)).2 (runDecoder fmt (storeBytes k bs s)).1 := by
  induction bs generalizing s with
  | nil => exact absurd rfl hne
  | cons b bs ih =>
    cases bs with
    | nil => rw [rxBytes_singleton hs, rxByte_of_last hs hf hk hc, storeBytes_cons, storeBytes_nil]
    | cons b' bs =>
      have hle := respFormat_length_le fmt
      have hcount : (storeByte b k s).rcnt.toNat = s.rcnt.toNat + 1 := by
        simp [Config.verRespLen] at hc hle ⊢
        omega
      rw [rxBytes, if_pos hs, rxByte_of_more hs hf hk (by simp at hc; omega), andThen_next]
      exact ih hs hf hk (by simp) (by rw [hcount]; simp at hc ⊢; omega)

/-- The block with a response stored in RB. -/
def holding (rb : RespBuf) (n k : Nat) (s : State) : State :=
  { s with rb := rb, rcnt := BitVec.ofNat 5 n, timer := BitVec.ofNat 13 k }

/-- A fresh receive wait outside a session stores the whole response at the start of RB, decodes it and ends (R150,
R152). -/
theorem takeResponse_of_wait {fmt : RespFormat} {k : Nat} {bs : List Byte} {s : State} (hs : s.tstate = .rx)
    (hc : s.rcnt = 0) (hf : respFormat s.op = some fmt) (hk : timeoutTicks s.op = some k) (hlen : bs.length = fmt.length)
    (hsess : sessionActive s.sstate = false) :
    ∃ rb : RespBuf, rb.toList = bs ++ s.rb.toList.drop bs.length ∧
      takeResponse bs s = .next (endTxn (runDecoder fmt (holding rb bs.length k s)).2
        (runDecoder fmt (holding rb bs.length k s)).1) := by
  have hle : bs.length ≤ 26 := hlen ▸ respFormat_length_le fmt
  have hne : bs ≠ [] := by
    rintro rfl
    cases fmt <;> cases hlen
  have hstore : storeBytes k bs s = holding (storeFrom s.rb 0 bs) bs.length k s := by
    rw [storeBytes_eq k hne (by simpa [hc] using hle), hc]
    simp [holding]
  have hidle : sessionActive (runDecoder fmt (storeBytes k bs s)).1.sstate = false := by
    rw [hstore]
    cases fmt <;> exact hsess
  refine ⟨storeFrom s.rb 0 bs, ?_, ?_⟩
  · simpa using storeFrom_toList bs (rb := s.rb) (k := 0) (by omega)
  · rw [takeResponse_of_fresh hc, rxBytes_of_due hs hf hk hne (by simpa [hc] using hlen), complete_of_idle hidle, hstore]

/-! ## The decoders on a stored response -/

theorem decodeVersion_of_bytes {s : State} {header : List Byte} {version maxPkt unused14 devId unused18 : Half}
    {row latch : Byte} {cfg : Word} (hlen : header.length = 10)
    (h : s.rb.toList = versionBytes header version maxPkt unused14 devId unused18 row latch cfg) :
    decodeVersion s = { s with
      infoVersion := version, infoMaxpkt := maxPkt, infoDevid := devId, infoRow := row, infoLatch := latch,
      infoCfg := cfg, infoValid := true } := by
  have hversion : pair s.rb[10] s.rb[11] = version := rb_pair h hlen 0 rfl rfl
  have hmaxPkt : pair s.rb[12] s.rb[13] = maxPkt := rb_pair h hlen 2 rfl rfl
  have hdevId : pair s.rb[16] s.rb[17] = devId := rb_pair h hlen 6 rfl rfl
  have hrow : s.rb[20] = row := rb_field h hlen 10 rfl
  have hlatch : s.rb[21] = latch := rb_field h hlen 11 rfl
  have hcfg : wordOf s.rb[22] s.rb[23] s.rb[24] s.rb[25] = cfg := by
    have h3 : s.rb[22] = wordByte cfg 3 := rb_field h hlen 12 rfl
    have h2 : s.rb[23] = wordByte cfg 2 := rb_field h hlen 13 rfl
    have h1 : s.rb[24] = wordByte cfg 1 := rb_field h hlen 14 rfl
    have h0 : s.rb[25] = wordByte cfg 0 := rb_field h hlen 15 rfl
    rw [h3, h2, h1, h0, wordOf_wordByte]
  simp only [decodeVersion, offVersion_eq, offMaxPkt_eq, offDevId_eq, offRow_eq, offLatch_eq, offCfg_eq, hversion, hmaxPkt,
    hdevId, hrow, hlatch, hcfg]

theorem decodeStatus_of_bytes {s : State} {header rest : List Byte} {status : Byte} (hlen : header.length = 10)
    (h : s.rb.toList = header ++ status :: rest) :
    decodeStatus s = { s with rspStatus := status } ∧ statusResult s = if status = 0x01 then .eNone else .eProtocol := by
  have hstatus : s.rb[10] = status := rb_field h hlen 0 rfl
  refine ⟨by simp only [decodeStatus, offStatus_eq, hstatus], ?_⟩
  simp only [statusResult, offStatus_eq, hstatus]
  rfl

theorem decodeCsum_of_bytes {s : State} {header rest : List Byte} {csum : Half} (hlen : header.length = 10)
    (h : s.rb.toList = header ++ hiByte csum :: loByte csum :: rest) : decodeCsum s = { s with rspCsum := csum } := by
  have hcsum : pair s.rb[10] s.rb[11] = csum := rb_pair h hlen 0 rfl rfl
  simp only [decodeCsum, offCsum_eq, hcsum]

/-! ## The three responses -/

/-- Settles O30: 26 bytes fill RB, and the decoder of R124 finds every field. -/
theorem versionResponseDecoded : Obligations.VersionResponseDecoded := by
  intro s header version maxPkt u14 devId u18 row latch cfg hlen hs hop hc hsess
  have hbytes : (versionBytes header version maxPkt u14 devId u18 row latch cfg).length = 26 := by
    simp [versionBytes, hlen]
  obtain ⟨rb, hrb, hexec⟩ := takeResponse_of_wait (fmt := .version) (k := 1000) hs hc (by rw [hop]; rfl)
    (by rw [hop]; rfl) hbytes hsess
  rw [hbytes, List.drop_eq_nil_of_le (by simp), List.append_nil] at hrb
  have hdec := decodeVersion_of_bytes (s := holding rb 26 1000 s) hlen hrb
  refine ⟨_, hexec, ?_, ?_⟩
  · rw [hbytes, runDecoder, hdec]
    rfl
  · exact hrb

/-- Settles O31: the status byte behind the header sets RSP_STATUS and the result (R125). -/
theorem statusResponseDecoded : Obligations.StatusResponseDecoded := by
  intro s header status hlen hs hop hc hsess
  have hbytes : (statusBytes header status).length = 11 := by simp [statusBytes, hlen]
  have hf : respFormat s.op = some .status := by rcases hop with hop | hop <;> (rw [hop]; rfl)
  have hk : timeoutTicks s.op = some (if s.op = 0x03 then 5000 else 1000) := by
    rcases hop with hop | hop <;> (rw [hop]; rfl)
  obtain ⟨rb, hrb, hexec⟩ := takeResponse_of_wait hs hc hf hk hbytes hsess
  rw [hbytes, statusBytes, List.append_assoc, List.singleton_append] at hrb
  obtain ⟨hdec, hres⟩ := decodeStatus_of_bytes
    (s := holding rb 11 (if s.op = 0x03 then 5000 else 1000) s) hlen hrb
  refine ⟨_, hexec, ?_, hrb⟩
  rw [hbytes, runDecoder, hdec, hres]
  split_ifs <;> rfl

/-- Settles O32: the two bytes behind the header are RSP_CSUM, and the engine is not read (R126, R159). -/
theorem checksumResponseDecoded : Obligations.ChecksumResponseDecoded := by
  intro s header csum hlen hs hop hc hsess
  have hbytes : (csumBytes header csum).length = 12 := by simp [csumBytes, hlen]
  obtain ⟨rb, hrb, hexec⟩ := takeResponse_of_wait (fmt := .csum) (k := 1000) hs hc (by rw [hop]; rfl) (by rw [hop]; rfl)
    hbytes hsess
  rw [hbytes, csumBytes, List.append_assoc] at hrb
  have hdec := decodeCsum_of_bytes (s := holding rb 12 1000 s) hlen hrb
  refine ⟨_, hexec, ?_, hrb⟩
  rw [hbytes, runDecoder, hdec]
  rfl

end Sys2Proof.Machine
end

section
/-! SUPPORT. How a command begins, and that a table word runs where `withFetchWord` places it
(spec/42_bootloader_commands.md R145, 30_encoding.md R83, R86, R87). -/

namespace Sys2Proof.Machine

/-! ## The start of a command -/

theorem sessionActive_of_not_busy {s : State} (h : busy s = false) : sessionActive s.sstate = false := by
  simp only [busy, Bool.or_eq_false_iff] at h
  exact h.2

/-- Outside a session an aborted transaction is just ended. -/
theorem abortTxn_of_idle {s : State} (h : sessionActive s.sstate = false) (res : Cause) :
    abortTxn res s = endTxn res s := by simp [abortTxn, h]

/-- An opcode the engine does not run ends at once with E_UNSUP. -/
theorem startTxn_of_unsupported {s : State} (h : supported s.op = false) : startTxn s = abortTxn .eUnsup s := by
  simp [startTxn, h]

/-- A payload that leaves the image ends at once with E_RANGE. -/
theorem startTxn_of_range {s : State} (hop : s.op = 0x02) (h : inImage s.addr.toNat s.size.toNat = false) :
    startTxn s = abortTxn .eRange s := by
  simp [startTxn, supported, hop, h]

section Command
variable {op : Byte} {size : Half} {addr : Addr} {wr : Bool} {i : Instr} {s : State}

/-- A command that is not refused loads its operands and starts its transaction (R86). -/
theorem exec_command (hi : commandOf op size addr wr = some i) (hb : busy s = false) :
    exec i s = .next (startTxn (loadOperands op size addr s)) := by
  rw [exec_of_commandOf hi, runCommand, hb, if_neg Bool.false_ne_true, issue]

theorem exec_command_launch (hi : commandOf op size addr wr = some i) (hb : busy s = false) (hop : supported op = true)
    (hr : op = 0x02 → inImage addr.toNat size.toNat = true) :
    exec i s = .next (launch (loadOperands op size addr s)) := by
  rw [exec_command hi hb, startTxn_launch hop hr]

theorem exec_command_unsupported (hi : commandOf op size addr wr = some i) (hb : busy s = false)
    (hop : supported op = false) : exec i s = .next (endTxn .eUnsup (loadOperands op size addr s)) := by
  rw [exec_command hi hb, startTxn_of_unsupported hop,
    abortTxn_of_idle (s := loadOperands op size addr s) (sessionActive_of_not_busy hb)]

theorem exec_command_range (hi : commandOf op size addr wr = some i) (hb : busy s = false) (hop : op = 0x02)
    (hr : inImage addr.toNat size.toNat = false) :
    exec i s = .next (endTxn .eRange (loadOperands op size addr s)) := by
  rw [exec_command hi hb, startTxn_of_range hop hr,
    abortTxn_of_idle (s := loadOperands op size addr s) (sessionActive_of_not_busy hb)]

end Command

/-- Settles O18: each of the four opcodes is one the engine runs and has no range test. -/
theorem runCommandsStart : Obligations.RunCommandsStart := by
  intro s size addr wr hb
  refine ⟨?_, ?_, ?_, ?_⟩
  · exact exec_command_launch (op := 0x00) (wr := wr) rfl hb rfl (absurd · (by decide))
  · exact exec_command_launch (op := 0x03) (wr := wr) rfl hb rfl (absurd · (by decide))
  · exact exec_command_launch (op := 0x08) (wr := wr) rfl hb rfl (absurd · (by decide))
  · exact exec_command_launch (op := 0x09) (wr := wr) rfl hb rfl (absurd · (by decide))

/-- Settles O19: the range test of FLASHWRITE decides between E_RANGE and the start. -/
theorem flashWriteStartsOrLeavesTheImage : Obligations.FlashWriteStartsOrLeavesTheImage := by
  refine fun s size addr wr hb => ⟨fun hr => ?_, fun hr => ?_⟩
  · exact exec_command_range (op := 0x02) (wr := wr) rfl hb rfl (decide_eq_false (Nat.not_le.mpr hr))
  · exact exec_command_launch (op := 0x02) (wr := wr) rfl hb rfl fun _ => decide_eq_true hr

/-- Settles O20: none of the three opcodes is one the engine runs. -/
theorem unrunCommandsEndAtOnce : Obligations.UnrunCommandsEndAtOnce := by
  intro s size addr wr hb
  refine ⟨?_, ?_, ?_⟩
  · exact exec_command_unsupported (op := 0x01) (wr := wr) rfl hb rfl
  · exact exec_command_unsupported (op := 0x06) (wr := wr) rfl hb rfl
  · exact exec_command_unsupported (op := 0x07) (wr := wr) rfl hb rfl

/-! ## Table words -/

theorem decode_tableCode {nbits w : Nat} {i : Instr} (h : decodeTableWord nbits w = some i) :
    decode (tableCode nbits w) = .ok i := by
  unfold decodeTableWord at h
  split at h
  · next hd =>
    cases h
    exact hd
  · cases h

/-- Which form a word has is told by its number of bits. -/
theorem tableCode_of_request {nbits : Nat} (w : Nat) (h : nbits ≤ 32) : ∃ j v, tableCode nbits w = .hostWrite j v := by
  rw [tableCode, if_pos h, tableRequest]
  split <;> exact ⟨_, _, rfl⟩

theorem tableCode_of_frame {nbits : Nat} (w : Nat) (h : 32 < nbits) (h' : nbits ≤ 80) :
    ∃ bs, tableCode nbits w = .frame bs := by
  rw [tableCode, if_neg (by omega), if_pos h', tableFrame]
  split <;> exact ⟨_, rfl⟩

theorem tableCode_of_response {nbits : Nat} (w : Nat) (h : 80 < nbits) :
    ∃ fmt bs, tableCode nbits w = .response fmt bs := by
  rw [tableCode, if_neg (by omega), if_neg (by omega)]
  split_ifs <;> exact ⟨_, _, rfl⟩

/-- A request placed as the oldest event is the next step (O47). -/
theorem step_raiseFirst_request {j : Index} {v : Word} {i : Instr} (h : decode (.hostWrite j v) = .ok i) (s : State) :
    step (raiseFirst (.hostWrite j v) s) = exec i s :=
  stepRunsTheDecodedRequest s [] s.pending j v i (by simp) h

/-- A command's operands and a write of CMD are the command (R86, O22). -/
theorem step_placeFrame {bs : List Byte} {i : Instr} {s : State} (h : decode (.frame bs) = .ok i) (hb : busy s = false) :
    step (placeFrame bs s) = exec i s := by
  obtain ⟨f, rfl, hf⟩ := exists_frame_of_decodeFrameBytes h
  obtain ⟨-, hcmd⟩ := decodeCommand_eq_ok_iff.mp hf
  have hplace : placeFrame f.toList s = raiseFirst (.hostWrite ctrlIndex 0x04)
      (loadOperands (decodeCmd f).op (decodeCmd f).size (decodeCmd f).addr s) := by
    rw [frame_eq_bytes f]
    rfl
  obtain ⟨-, hexec⟩ := commandIsOperandsThenCmd s _ _ _ _ i hcmd
  rw [hplace, step_raiseFirst_request (i := .cmd) rfl, hexec hb]
  rfl

/-- The receive wait in which only the last of the bytes is still due. -/
def awaitingLast (fmt : RespFormat) (bs : List Byte) (s : State) : State :=
  { s with
    tstate := .rx
    op := opcodeFor fmt
    rb := storeFrom s.rb 0 bs.dropLast
    rcnt := BitVec.ofNat 5 (bs.length - 1)
    timer := 1000 }

theorem placeResponse_append (fmt : RespFormat) (bs : List Byte) (b : Byte) (s : State) :
    placeResponse fmt (bs ++ [b]) s = raiseFirst (.rxByte b) (awaitingLast fmt (bs ++ [b]) s) := by
  rw [placeResponse, List.getLast?_concat]
  rfl

theorem awaitingLast_respLen (fmt : RespFormat) (bs : List Byte) (s : State) :
    respLen (awaitingLast fmt bs s).op = some fmt.length := by
  cases fmt <;> rfl

theorem awaitingLast_rcnt {fmt : RespFormat} {bs : List Byte} (hlen : bs.length = fmt.length) (s : State) :
    (awaitingLast fmt bs s).rcnt.toNat = bs.length - 1 := by
  have hle : bs.length ≤ 26 := hlen ▸ respFormat_length_le fmt
  simp only [awaitingLast, BitVec.toNat_ofNat]
  omega

/-- The bytes received are all but the last. -/
theorem received_awaitingLast {fmt : RespFormat} {bs : List Byte} (hlen : bs.length = fmt.length) (s : State) :
    received (awaitingLast fmt bs s) = bs.take (bs.length - 1) := by
  have hle : bs.length ≤ 26 := hlen ▸ respFormat_length_le fmt
  have hstore := storeFrom_toList bs.dropLast (rb := s.rb) (k := 0) (by simp; omega)
  rw [received, awaitingLast_rcnt hlen]
  change (storeFrom s.rb 0 bs.dropLast).toList.take _ = _
  rw [hstore]
  simp [List.dropLast_eq_take]

/-- In that wait the response takes its last byte alone. -/
theorem takeResponse_awaitingLast {fmt : RespFormat} {bs : List Byte} {b : Byte}
    (hlen : (bs ++ [b]).length = fmt.length) (s : State) :
    takeResponse (bs ++ [b]) (awaitingLast fmt (bs ++ [b]) s) = rxByte b (awaitingLast fmt (bs ++ [b]) s) := by
  have hdue : stillToCome (bs ++ [b]) (awaitingLast fmt (bs ++ [b]) s) = [b] := by
    rw [stillToCome, received_awaitingLast hlen, awaitingLast_rcnt hlen, if_pos ⟨rfl, rfl⟩]
    simp
  rw [takeResponse, hdue, rxBytes_singleton (by rfl)]

/-- A response placed in its receive wait runs as the step that takes its last byte (R87). -/
theorem step_placeResponse {fmt : RespFormat} {bs : List Byte} {i : Instr} (h : decode (.response fmt bs) = .ok i)
    (s : State) : step (placeResponse fmt bs s) = exec i (awaitingLast fmt bs s) := by
  obtain ⟨hlen, hexec⟩ := decodeResponse_ok h
  have hne : bs ≠ [] := by
    rintro rfl
    cases fmt <;> cases hlen
  obtain ⟨front, b, rfl⟩ := (List.eq_nil_or_concat' bs).resolve_left hne
  rw [hexec, takeResponse_awaitingLast hlen, placeResponse_append]
  exact step_rxByte (s := awaitingLast fmt (front ++ [b]) s) rfl b s.pending

/-- Settles O49: the three forms of a table word, each placed as its rule says. -/
theorem fetchedTableWordRuns : Obligations.FetchedTableWordRuns := by
  intro s nbits w i h
  have hd := decode_tableCode h
  unfold State.withFetchWord
  refine ⟨fun hn => ?_, fun hn hn' hb => ?_, fun hn => ?_⟩
  · obtain ⟨j, v, hc⟩ := tableCode_of_request w hn
    rw [hc] at hd ⊢
    exact step_raiseFirst_request hd s
  · obtain ⟨bs, hc⟩ := tableCode_of_frame w hn hn'
    rw [hc] at hd ⊢
    exact step_placeFrame hd hb
  · obtain ⟨fmt, bs, hc⟩ := tableCode_of_response w hn
    rw [hc] at hd ⊢
    obtain ⟨hlen, -⟩ := decodeResponse_ok hd
    have hpos : 1 ≤ fmt.length := by cases fmt <;> decide
    refine ⟨awaitingLast fmt bs s, rfl, ?_, step_placeResponse hd s⟩
    rw [awaitingLast_respLen, awaitingLast_rcnt hlen, Option.getD_some]
    omega

end Sys2Proof.Machine
end

section
/-! SUPPORT. Sending: the bytes a channel gets that takes every byte, from CMD to the receive wait
(spec/30_encoding.md R79, 42_bootloader_commands.md R146 to R148). -/

namespace Sys2Proof.Machine

/-! ## One accepted byte -/

theorem step_txAccept {s : State} (h : enabled .txAccept s = true) (es : List Event) :
    step (setPending (.txAccept :: es) s) = txAccept (setPending es s) := by
  rw [step_of_enabled h]
  rfl

theorem txAccept_txf {s : State} (hs : s.tstate = .txf) {b : Byte} (hb : s.fb.toList[s.idx.toNat]? = some b) :
    txAccept s = afterFrameByte (acceptByte b s) := by
  have hoffer : txByte s = some b := by simpa [txByte, hs] using hb
  simp only [txAccept, hs, hoffer]

theorem txAccept_txd {s : State} (hs : s.tstate = .txd) (hr : s.addr.toNat + s.idx.toNat < 0x100000) :
    txAccept s = afterPayloadByte (acceptByte (cellRead s.img (s.addr.toNat + s.idx.toNat)) s) := by
  have hoffer : txByte s = some (cellRead s.img (s.addr.toNat + s.idx.toNat)) := by
    simp only [txByte, hs, memRead]
    exact if_pos hr
  simp only [txAccept, hs, hoffer]

/-! ## A run of accepted bytes -/

theorem runSteps_one (s : State) : runSteps 1 s = step s := by
  rw [runSteps_succ]
  cases step s <;> rfl

theorem runSteps_add (m n : Nat) (s : State) : runSteps (m + n) s = andThen (runSteps m s) (runSteps n) := by
  induction m generalizing s with
  | zero => rw [Nat.zero_add]; rfl
  | succ m ih =>
    rw [Nat.add_right_comm, runSteps_succ, runSteps_succ]
    cases step s with
    | next t => exact ih t
    | fault e => rfl
    | refused e => rfl

/-- Accepted bytes lead through the states `g`; `after` is what follows each of them, and it does nothing before the last. -/
theorem runSteps_txAccepts {after : State → Result} {g : Nat → State} {n : Nat}
    (haccept : ∀ es, ∀ j ≤ n, step (setPending (.txAccept :: es) (g j)) = after (setPending es (g (j + 1))))
    (hmore : ∀ es, ∀ j < n, after (setPending es (g (j + 1))) = .next (setPending es (g (j + 1)))) (rest : List Event) :
    runSteps (n + 1) (setPending (List.replicate (n + 1) .txAccept ++ rest) (g 0)) =
      after (setPending rest (g (n + 1))) := by
  induction n generalizing g with
  | zero => exact (runSteps_one _).trans (haccept rest 0 le_rfl)
  | succ n ih =>
    rw [runSteps_succ, List.replicate_succ, List.cons_append, haccept _ 0 (by omega), hmore _ 0 (by omega), andThen_next]
    exact ih (g := fun j => g (j + 1)) (fun es j hj => haccept es (j + 1) (by omega))
      (fun es j hj => hmore es (j + 1) (by omega))

/-- The block as it stands when the channel has taken the first `j` of the bytes of this part of the transaction. -/
def sentUpTo (bs : List Byte) (j : Nat) (s : State) : State :=
  { s with sent := s.sent ++ bs.take j, idx := BitVec.ofNat 16 j }

theorem sentUpTo_zero {s : State} (h : s.idx = 0) (bs : List Byte) : sentUpTo bs 0 s = s := by
  rw [sentUpTo, List.take_zero, List.append_nil]
  exact congrArg (fun n => { s with idx := n }) h.symm

theorem sentUpTo_all {bs : List Byte} {n : Nat} (h : bs.length = n) (s : State) :
    sentUpTo bs n s = { s with sent := s.sent ++ bs, idx := BitVec.ofNat 16 n } := by
  rw [sentUpTo, List.take_of_length_le h.le]

theorem sentUpTo_idx {bs : List Byte} {j : Nat} (hj : j < 65536) (s : State) : (sentUpTo bs j s).idx.toNat = j := by
  simp only [sentUpTo, BitVec.toNat_ofNat]
  omega

theorem acceptByte_sentUpTo {bs : List Byte} {j : Nat} {b : Byte} (hb : bs[j]? = some b) (s : State) :
    acceptByte b (sentUpTo bs j s) = sentUpTo bs (j + 1) s := by
  have hsent : s.sent ++ bs.take j ++ [b] = s.sent ++ bs.take (j + 1) := by
    rw [List.append_assoc, List.take_add_one, hb, Option.toList_some]
  have hidx : BitVec.ofNat 16 j + 1 = BitVec.ofNat 16 (j + 1) := (BitVec.ofNat_add ..).symm
  simp only [acceptByte, sentUpTo, hsent, hidx]

/-- After the tenth byte of the frame comes the payload, if there is one, or sending is done (R146). -/
theorem afterFrameByte_payload {s : State} (hidx : s.idx = 10) (h : s.op = 0x02 ∧ s.size ≠ 0) :
    afterFrameByte s = .next (enterTxd s) := by
  rw [afterFrameByte, hidx, if_pos (by rfl)]
  exact if_pos h

theorem afterFrameByte_done {s : State} (hidx : s.idx = 10) (h : ¬(s.op = 0x02 ∧ s.size ≠ 0)) :
    afterFrameByte s = txDone s := by
  rw [afterFrameByte, hidx, if_pos (by rfl)]
  exact if_neg h

/-- The frame: ten accepted bytes, and then what follows the tenth (R146). -/
theorem runSteps_frame {s : State} (hs : s.tstate = .txf) (hidx : s.idx = 0) (rest : List Event) :
    runSteps 10 (setPending (List.replicate 10 .txAccept ++ rest) s) =
      afterFrameByte (setPending rest (sentUpTo s.fb.toList 10 s)) := by
  have hlen : s.fb.toList.length = 10 := Vector.length_toList
  have hrun := runSteps_txAccepts (after := afterFrameByte) (g := fun j => sentUpTo s.fb.toList j s) (n := 9)
    (fun es j hj => ?_) (fun es j hj => ?_) rest
  · rwa [sentUpTo_zero hidx] at hrun
  · have hb : s.fb.toList[j]? = some (s.fb.toList[j]'(by omega)) := List.getElem?_eq_getElem _
    rw [step_txAccept (by simp [enabled, sentUpTo, hs]), ← acceptByte_sentUpTo hb]
    refine txAccept_txf (s := setPending es (sentUpTo s.fb.toList j s)) hs ?_
    rw [setPending_idx, sentUpTo_idx (by omega)]
    exact hb
  · rw [afterFrameByte, if_neg]
    rw [setPending_idx, sentUpTo_idx (by omega), Config.frameLen]
    omega

/-- The payload: SIZE accepted image bytes, and then sending is done (R147). -/
theorem runSteps_payload {s : State} (hs : s.tstate = .txd) (hidx : s.idx = 0) (hsize : s.size ≠ 0)
    (hr : s.addr.toNat + s.size.toNat ≤ 0x100000) (rest : List Event) :
    runSteps s.size.toNat (setPending (List.replicate s.size.toNat .txAccept ++ rest) s) =
      txDone (setPending rest (sentUpTo (imageBytes s.img s.addr.toNat s.size.toNat) s.size.toNat s)) := by
  generalize hbs : imageBytes s.img s.addr.toNat s.size.toNat = bs
  have hlen : bs.length = s.size.toNat := by simp [← hbs, imageBytes]
  have hlt : s.size.toNat < 65536 := s.size.isLt
  obtain ⟨n, hn⟩ := Nat.exists_eq_succ_of_ne_zero fun h => hsize (BitVec.eq_of_toNat_eq h)
  rw [Nat.succ_eq_add_one] at hn
  have hrun := runSteps_txAccepts (after := afterPayloadByte) (g := fun j => sentUpTo bs j s) (n := n)
    (fun es j hj => ?_) (fun es j hj => ?_) rest
  · rw [sentUpTo_zero hidx, ← hn, afterPayloadByte, if_pos] at hrun
    · exact hrun
    · exact BitVec.eq_of_toNat_eq (sentUpTo_idx (bs := bs) hlt s)
  · have hb : bs[j]? = some (cellRead s.img (s.addr.toNat + j)) := by
      have hj : j < s.size.toNat := by omega
      simp [← hbs, imageBytes, hj]
    have hcount : (setPending es (sentUpTo bs j s)).idx.toNat = j := sentUpTo_idx (bs := bs) (by omega) s
    have htx := txAccept_txd (s := setPending es (sentUpTo bs j s)) hs
      (by rw [hcount]; exact (show s.addr.toNat + j < 0x100000 by omega))
    rw [step_txAccept (by simp [enabled, sentUpTo, hs]), htx, hcount, ← acceptByte_sentUpTo hb]
    rfl
  · rw [afterPayloadByte, if_neg]
    intro h
    have hidx' : (sentUpTo bs (j + 1) s).idx.toNat = s.size.toNat := congrArg BitVec.toNat h
    rw [sentUpTo_idx (by omega)] at hidx'
    omega

/-! ## From CMD to the wait -/

/-- The payload of a transaction: the image bytes of a FlashWrite's range, and nothing for any other opcode (R79). -/
def payloadOf (s : State) : List Byte :=
  if s.op = 0x02 then imageBytes s.img s.addr.toNat s.size.toNat else []

theorem payloadOf_flashWrite {s : State} (h : s.op = 0x02) :
    payloadOf s = imageBytes s.img s.addr.toNat s.size.toNat := if_pos h

theorem payloadOf_eq_nil {s : State} (h : ¬(s.op = 0x02 ∧ s.size ≠ 0)) : payloadOf s = [] := by
  unfold payloadOf
  split_ifs with hop
  · have hsize : s.size = 0 := by tauto
    rw [hsize]
    rfl
  · rfl

/-- The block after the last byte sent, wherever IDX and TSTATE stand then. -/
def allSent (idx : Half) (ts : TState) (s : State) : State :=
  { s with sent := s.sent ++ s.fb.toList ++ payloadOf s, idx := idx, tstate := ts }

@[simp] theorem allSent_op (n : Half) (ts : TState) (s : State) : (allSent n ts s).op = s.op := (rfl)
@[simp] theorem allSent_sent (n : Half) (ts : TState) (s : State) :
    (allSent n ts s).sent = s.sent ++ s.fb.toList ++ payloadOf s := (rfl)
@[simp] theorem allSent_img (n : Half) (ts : TState) (s : State) : (allSent n ts s).img = s.img := (rfl)
@[simp] theorem allSent_herr (n : Half) (ts : TState) (s : State) : (allSent n ts s).herr = s.herr := (rfl)
@[simp] theorem allSent_sstate (n : Half) (ts : TState) (s : State) : (allSent n ts s).sstate = s.sstate := (rfl)
@[simp] theorem allSent_tres (n : Half) (ts : TState) (s : State) : (allSent n ts s).tres = s.tres := (rfl)
@[simp] theorem allSent_rcnt (n : Half) (ts : TState) (s : State) : (allSent n ts s).rcnt = s.rcnt := (rfl)
@[simp] theorem allSent_timer (n : Half) (ts : TState) (s : State) : (allSent n ts s).timer = s.timer := (rfl)

/-- From the first byte of the frame to the last byte sent. -/
theorem runSteps_frame_payload {s : State} (hs : s.tstate = .txf) (hidx : s.idx = 0)
    (hr : s.op = 0x02 → s.addr.toNat + s.size.toNat ≤ 0x100000) (rest : List Event) :
    ∃ n ts, runSteps (10 + (payloadOf s).length)
        (setPending (List.replicate (10 + (payloadOf s).length) .txAccept ++ rest) s) =
      txDone (setPending rest (allSent n ts s)) := by
  have hframe := sentUpTo_all (bs := s.fb.toList) (n := 10) Vector.length_toList s
  by_cases hp : s.op = 0x02 ∧ s.size ≠ 0
  · obtain ⟨hop, hsize⟩ := hp
    have hlen : (payloadOf s).length = s.size.toNat := by simp [payloadOf_flashWrite hop, imageBytes]
    have hall : sentUpTo (payloadOf s) s.size.toNat (enterTxd (sentUpTo s.fb.toList 10 s)) =
        allSent (BitVec.ofNat 16 s.size.toNat) .txd s := by
      rw [sentUpTo_all hlen, hframe]
      rfl
    have hpay := runSteps_payload (s := enterTxd (sentUpTo s.fb.toList 10 s)) rfl rfl hsize (hr hop) rest
    refine ⟨BitVec.ofNat 16 s.size.toNat, .txd, ?_⟩
    rw [runSteps_add, List.replicate_add, List.append_assoc, runSteps_frame hs hidx,
      afterFrameByte_payload (s := setPending _ (sentUpTo s.fb.toList 10 s)) rfl ⟨hop, hsize⟩, andThen_next, hlen, ← hall,
      payloadOf_flashWrite hop]
    exact hpay
  · refine ⟨10, s.tstate, ?_⟩
    rw [allSent, payloadOf_eq_nil hp, List.length_nil, Nat.add_zero, List.append_nil, runSteps_frame hs hidx,
      afterFrameByte_done (s := setPending _ (sentUpTo s.fb.toList 10 s)) rfl hp, hframe]
    rfl

/-- The end of sending outside a session: the device's Reset has no response, every other opcode a receive wait with its
full timeout (R148, R160). -/
theorem txDone_of_supported {s : State} (hop : supported s.op = true) (hsess : sessionActive s.sstate = false) :
    (s.op = 0x09 ∧ txDone s = .next (endTxn .eNone s)) ∨
    (s.op ≠ 0x09 ∧ ∃ k < 8192, timeoutTicks s.op = some k ∧ txDone s = .next (enterRx k s)) := by
  rcases (supported_iff s.op).mp hop with h | h | h | h | h
  case inr.inr.inr.inr =>
    refine .inl ⟨h, ?_⟩
    rw [← complete_of_idle hsess, txDone, h]
    rfl
  all_goals
    refine .inr ⟨by rw [h]; decide, _, ?_, by rw [h]; rfl, by rw [txDone, h]; rfl⟩
    decide

/-- CMD of a block that is not busy launches the transaction (R140, R145). -/
theorem runSteps_cmd {s : State} (hb : busy s = false) (hop : supported s.op = true)
    (hr : s.op = 0x02 → s.addr.toNat + s.size.toNat ≤ 0x100000) (k : Nat) (es : List Event) :
    runSteps (k + 1) (setPending (.hostWrite ctrlIndex 0x04 :: es) s) = runSteps k (setPending es (launch s)) := by
  have hlaunch : startTxn (setPending es s) = launch (setPending es s) :=
    startTxn_launch (s := setPending es s) hop fun h => decide_eq_true (hr h)
  have hb' : busy (setPending es s) = false := hb
  rw [runSteps_succ, step_ctrl_request (i := .cmd) rfl, exec, execCmd, hb', if_neg Bool.false_ne_true, andThen_next,
    hlaunch]
  rfl

/-- Settles O55: CMD launches the transaction, the frame and the payload go out, and sending is done. -/
theorem commandOnTheWire : Obligations.CommandOnTheWire := by
  intro s rest payload hb hop hr hpayload
  obtain rfl : payload = payloadOf (launch s) := hpayload
  obtain ⟨n, ts, hsend⟩ := runSteps_frame_payload (s := launch s) rfl rfl hr rest
  have hcount : 11 + (payloadOf (launch s)).length = 10 + (payloadOf (launch s)).length + 1 := by omega
  have hrun := (runSteps_cmd hb hop hr (10 + (payloadOf (launch s)).length) _).trans hsend
  rw [← hcount] at hrun
  generalize hu : setPending rest (allSent n ts (launch s)) = u at hrun
  have hopu : u.op = s.op := by simp [← hu]
  have hsess : sessionActive u.sstate = false := by simpa [← hu] using sessionActive_of_not_busy hb
  rcases txDone_of_supported (by rwa [hopu]) hsess with ⟨hreset, hdone⟩ | ⟨hreset, k, hk, htimeout, hdone⟩
  · rw [hopu] at hreset
    exact ⟨_, hrun.trans hdone, by simp [← hu, hreset]⟩
  · rw [hopu] at hreset htimeout
    have hticks : (BitVec.ofNat 13 k).toNat = k := Nat.mod_eq_of_lt hk
    exact ⟨_, hrun.trans hdone, by simpa [← hu, htimeout, -BitVec.toNat_ofNat, hticks] using hreset⟩

end Sys2Proof.Machine
end

section
/-! SUPPORT. The checksum engine: the function of a byte sequence, its 16-bit form, the engine that computes it from any
pieces, and the requests CSCLR, CSPUSH and CSRANGE (spec/40_checksum_engine.md). -/

namespace Sys2Proof.Machine

/-! ## The function pair by pair (R100) -/

@[simp] theorem sumPairs_nil (ab : Byte × Byte) : sumPairs ab [] = ab := rfl

@[simp] theorem sumPairs_singleton (ab : Byte × Byte) (x : Byte) : sumPairs ab [x] = ab := rfl

@[simp] theorem sumPairs_cons_cons (ab : Byte × Byte) (x y : Byte) (rest : List Byte) :
    sumPairs ab (x :: y :: rest) = sumPairs (addPair ab.1 ab.2 x y) rest := rfl

/-- After whole pairs the sum goes on from the accumulators reached. -/
theorem sumPairs_append_of_even {xs : List Byte} (h : xs.length % 2 = 0) (ab : Byte × Byte) (ys : List Byte) :
    sumPairs ab (xs ++ ys) = sumPairs (sumPairs ab xs) ys := by
  induction xs using List.twoStepInduction generalizing ab with
  | nil => rfl
  | singleton x => exact absurd h (by simp)
  | cons_cons x y rest ih _ => exact ih (by simp only [List.length_cons] at h; omega) _

theorem toNat_pair (hi lo : Byte) : (pair hi lo).toNat = 256 * hi.toNat + lo.toNat := by
  rw [pair, BitVec.toNat_append, ← Nat.shiftLeft_add_eq_or_of_lt lo.isLt, Nat.shiftLeft_eq, Nat.mul_comm]

/-- The result has the accumulators as its two digits to the base 256. -/
theorem toNat_checksum (data : List Byte) :
    (checksum data).toNat = 256 * (sumPairs (0, 0) data).1.toNat + (sumPairs (0, 0) data).2.toNat := toNat_pair _ _

/-- Settles O5: the sequence before the last bytes is whole pairs, so those bytes meet the accumulators it leaves. -/
theorem checksumPairByPair : Obligations.ChecksumPairByPair := by
  refine ⟨rfl, fun data heven x y => ⟨?_, ?_⟩⟩
  · rw [checksum, sumPairs_append_of_even heven, sumPairs_singleton, checksum]
  · have ha : (checksum data).toNat / 256 = (sumPairs (0, 0) data).1.toNat := by rw [toNat_checksum]; omega
    have hb : (checksum data).toNat % 256 = (sumPairs (0, 0) data).2.toNat := by rw [toNat_checksum]; omega
    rw [ha, hb, toNat_checksum, sumPairs_append_of_even heven, sumPairs_cons_cons, sumPairs_nil]
    rfl

/-! ## The 16-bit form (R106, R107) -/

/-- Two bytes read as a little-endian word: a pair of the data, or the accumulators (CS_A, CS_B). -/
def leWord (p : Byte × Byte) : Nat := p.1.toNat + 256 * p.2.toNat

theorem leWord_lt (p : Byte × Byte) : leWord p < 65536 := by
  unfold leWord
  omega

@[simp] theorem wordSum_cons_cons (x y : Byte) (rest : List Byte) :
    wordSum (x :: y :: rest) = leWord (x, y) + wordSum rest := rfl

/-- Adding a pair in two halves is one 16-bit addition of words, without the carry out of bit 15. -/
theorem leWord_addPair (a b x y : Byte) : leWord (addPair a b x y) = (leWord (a, b) + leWord (x, y)) % 65536 := by
  simp only [leWord, addPair, BitVec.toNat_ofNat]
  omega

theorem leWord_sumPairs (ab : Byte × Byte) (data : List Byte) :
    leWord (sumPairs ab data) = (leWord ab + wordSum data) % 65536 := by
  induction data using List.twoStepInduction generalizing ab with
  | nil => exact (Nat.mod_eq_of_lt (leWord_lt ab)).symm
  | singleton x => exact (Nat.mod_eq_of_lt (leWord_lt ab)).symm
  | cons_cons x y rest ih _ =>
    rw [sumPairs_cons_cons, ih, leWord_addPair, wordSum_cons_cons, Nat.mod_add_mod, Nat.add_assoc]

/-- The checksum is the word sum with its two bytes swapped. -/
theorem toNat_checksum_eq_wordSum (data : List Byte) :
    (checksum data).toNat = 256 * (wordSum data % 65536 % 256) + wordSum data % 65536 / 256 := by
  have hsum : leWord (sumPairs (0, 0) data) = (0 + wordSum data) % 65536 := leWord_sumPairs (0, 0) data
  rw [Nat.zero_add, leWord] at hsum
  rw [toNat_checksum, ← hsum]
  omega

/-- Over whole pairs the word sum is a sum of words, in which their order is free. -/
theorem wordSum_flatMap_pairs (ps : List (Byte × Byte)) :
    wordSum (ps.flatMap fun p => [p.1, p.2]) = (ps.map leWord).sum := by
  induction ps with
  | nil => rfl
  | cons p ps ih => simp [ih]

/-- Settles O6: the 16-bit form, which depends on the word sum alone. -/
theorem checksumIsSwappedWordSum : Obligations.ChecksumIsSwappedWordSum := by
  refine ⟨toNat_checksum_eq_wordSum, fun ps qs hperm => BitVec.eq_of_toNat_eq ?_⟩
  have hsum : (ps.map leWord).sum = (qs.map leWord).sum := (hperm.map leWord).sum_eq
  rw [toNat_checksum_eq_wordSum, toNat_checksum_eq_wordSum, wordSum_flatMap_pairs, wordSum_flatMap_pairs, hsum]

/-! ## The streaming engine (R102, R108) -/

/-- The phase is turned over once for each byte. -/
theorem csPushAll_csPh (bs : List Byte) (s : State) :
    (csPushAll bs s).csPh = (s.csPh ^^ decide (bs.length % 2 = 1)) := by
  induction bs generalizing s with
  | nil => simp
  | cons b bs ih =>
    rw [csPushAll_cons, ih, csPushByte_csPh, List.length_cons]
    rcases Nat.mod_two_eq_zero_or_one bs.length with h | h <;> simp [Nat.add_mod, h]

/-- Two pushes from phase 0 add one pair. -/
theorem csPushByte_csPushByte {s : State} (h : s.csPh = false) (x y : Byte) :
    csPushByte (csPushByte s x) y = { s with
      csA := (addPair s.csA s.csB x y).1, csB := (addPair s.csA s.csB x y).2, csH := x, csPh := false } := by
  rw [csPushByte_first h, csPushByte_second rfl]

/-- From phase 0 the accumulators run through the sum of R100; a trailing byte waits in CS_H. -/
theorem csPushAll_accumulators (bs : List Byte) {s : State} (h : s.csPh = false) :
    ((csPushAll bs s).csA, (csPushAll bs s).csB) = sumPairs (s.csA, s.csB) bs := by
  induction bs using List.twoStepInduction generalizing s with
  | nil => rfl
  | singleton x => rw [csPushAll_cons, csPushByte_first h]; rfl
  | cons_cons x y rest ih _ => rw [csPushAll_cons, csPushAll_cons, csPushByte_csPushByte h, ih rfl]; rfl

/-- The engine computes the function of what it is given after a clear. -/
theorem csValue_csPushAll_csClear (bs : List Byte) (s : State) : csValue (csPushAll bs (csClear s)) = checksum bs := by
  have hacc : ((csPushAll bs (csClear s)).csA, (csPushAll bs (csClear s)).csB) = sumPairs (0, 0) bs :=
    csPushAll_accumulators bs rfl
  rw [checksum, ← hacc, csValue]

/-- Pushing in pieces is pushing the whole (R108), because a push goes on from the registers the last one left. -/
theorem foldl_csPushAll (pieces : List (List Byte)) (s : State) :
    pieces.foldl (fun t p => csPushAll p t) s = csPushAll pieces.flatten s := List.foldl_flatten.symm

/-- Settles O7: the pieces are one sequence, and the engine computes its checksum and its parity. -/
theorem streamingEngineComputesChecksum : Obligations.StreamingEngineComputesChecksum := by
  intro s pieces
  rw [foldl_csPushAll]
  exact ⟨csValue_csPushAll_csClear _ s, by rw [csPushAll_csPh, csClear_csPh, Bool.false_xor]⟩

/-! ## The requests (R103 to R105) -/

theorem exec_csClr_idle {s : State} (h : busy s = false) : exec .csClr s = .next (csClear s) := by
  rw [exec, execCsClr, h, if_neg Bool.false_ne_true]

theorem exec_csPush_idle {s : State} (h : busy s = false) (b : Byte) :
    exec (.csPush b) s = .next (csPushByte s b) := by
  rw [exec, execCsPush, h, if_neg Bool.false_ne_true]

theorem exec_csRange_idle {s : State} (h : busy s = false) :
    exec .csRange s =
      .next (if inImage s.addr.toNat s.size.toNat then csPushAll (operandRange s) s else refuse s) := by
  rw [exec, execCsRange, h, if_neg Bool.false_ne_true]

theorem inImage_iff (base len : Nat) : inImage base len = true ↔ base + len ≤ 0x100000 := decide_eq_true_iff

/-- Pushing the operand range turns the phase over when SIZE is odd. -/
theorem csPushAll_operandRange_csPh (s : State) :
    (csPushAll (operandRange s) s).csPh = (s.csPh ^^ s.size.getLsbD 0) := by
  rw [csPushAll_csPh, operandRange, cellRange_length, BitVec.getLsbD, Nat.testBit_zero]

/-- Settles O2: refused while busy as every guarded strobe is, a clear otherwise. -/
theorem csClrResult : Obligations.CsClrResult :=
  ⟨rfl, fun _ => ⟨fun hb => exec_guarded_busy (by decide) hb, fun hb => exec_csClr_idle hb⟩⟩

/-- Settles O3: refused while busy, else one push, by the phase it meets. -/
theorem csPushResult : Obligations.CsPushResult := by
  refine fun s b v => ⟨rfl, fun hb => exec_csPush_busy b hb, fun hb hph => ?_, fun hb hph => ?_⟩
  · rw [exec_csPush_idle hb, csPushByte_first hph]
  · rw [exec_csPush_idle hb, csPushByte_second hph]
    rfl

/-- Settles O4: refused while busy or out of the image, else the range's bytes are pushed one after another. -/
theorem csRangeResult : Obligations.CsRangeResult := by
  refine ⟨rfl, fun s => ⟨fun hb => exec_guarded_busy (by decide) hb, fun hb hout => ?_, fun hb hin => ?_⟩⟩
  · have hrange : ¬ inImage s.addr.toNat s.size.toNat = true := by rw [inImage_iff]; omega
    rw [exec_csRange_idle hb, if_neg hrange]
    rfl
  · rw [exec_csRange_idle hb, if_pos ((inImage_iff _ _).mpr hin), csPushAll_frame, csPushAll_operandRange_csPh,
      operandRange, cellRange_eq_imageBytes]
    rfl

end Sys2Proof.Machine
end

section
/-! SUPPORT. The requests ENCODE and DECODE, each undoing the other (spec/41_frame_codec.md R120 to R123, R127). -/

namespace Sys2Proof.Machine

/-! ## The requests when the block is not busy -/

theorem exec_encodeFrame_idle {s : State} (h : busy s = false) : exec .encodeFrame s = .next (buildFrame s) := by
  rw [exec, execEncodeFrame, h, if_neg Bool.false_ne_true]

theorem exec_decodeFrame_idle {s : State} (h : busy s = false) : exec .decodeFrame s = .next (takeFrame s) := by
  rw [exec, execDecodeFrame, h, if_neg Bool.false_ne_true]

/-! ## The flags of `decode_cmd()` as conditions on the bytes (R123) -/

theorem magicWrites_eq_decide (f4 f5 : Byte) : magicWrites f4 f5 = decide (f4 = 0x55 ∧ f5 = 0xAA) :=
  Bool.eq_iff_iff.mpr (magicWrites_iff.trans decide_eq_true_iff.symm)

theorem decodeCmd_ok_eq_decide (f : Frame) :
    (decodeCmd f).ok = decide (f[0] = 0x55 ∧ f[9] = 0x00 ∧
      ((f[4] = 0x55 ∧ f[5] = 0xAA) ∨ (f[4] = 0x00 ∧ f[5] = 0x00))) := by
  rw [Bool.eq_iff_iff, decodeCmd_ok_iff, magicWrites_iff, magicReads_iff]
  exact decide_eq_true_iff.symm

theorem knownOpcode_eq_decide_mem (op : Byte) :
    knownOpcode op = decide (op ∈ ([0x00, 0x01, 0x02, 0x03, 0x06, 0x07, 0x08, 0x09] : List Byte)) := by
  rw [Bool.eq_iff_iff, decide_eq_true_iff]
  simp only [knownOpcode, Bool.or_eq_true, beq_iff_eq, List.mem_cons, List.not_mem_nil, or_false, or_assoc]
  rfl

/-! ## ENCODE after DECODE -/

/-- ENCODE keeps a block whose FB already is the frame of its operands. -/
theorem exec_encodeFrame_eq_self {s : State} (hb : busy s = false) (h : frameOf s.op s.size s.addr s.wr = s.fb) :
    exec .encodeFrame s = .next s := by
  rw [exec_encodeFrame_idle hb, buildFrame, h]

/-! ## The obligations -/

/-- Settles O8: refused while busy as every guarded strobe is, else the frame of R121 in FB. -/
theorem encodeResult : Obligations.EncodeResult :=
  ⟨rfl, fun _ => ⟨fun hb => exec_guarded_busy (by decide) hb, fun hb => exec_encodeFrame_idle hb⟩⟩

/-- Settles O9: refused while busy as every guarded strobe is, else the fields and the three flags of FB. -/
theorem decodeResult : Obligations.DecodeResult := by
  refine ⟨rfl, fun s => ⟨fun hb => exec_guarded_busy (by decide) hb, fun hb => ?_⟩⟩
  rw [exec_decodeFrame_idle hb, ← magicWrites_eq_decide, ← decodeCmd_ok_eq_decide, ← knownOpcode_eq_decide_mem]
  rfl

/-- Settles O10: DECODE recovers the operands of a built frame, and the fields it recovers build a well-formed frame. -/
theorem encodeDecodeRoundTrip : Obligations.EncodeDecodeRoundTrip := by
  refine ⟨fun s t u hb henc hdec => ?_, fun s t hb hdec hok => ?_⟩
  · obtain rfl := Host.Outcome.next.inj ((exec_encodeFrame_idle hb).symm.trans henc)
    have hb' : busy (buildFrame s) = false := hb
    obtain rfl := Host.Outcome.next.inj ((exec_decodeFrame_idle hb').symm.trans hdec)
    simp [decodeCmd_frameOf]
  · obtain rfl := Host.Outcome.next.inj ((exec_decodeFrame_idle hb).symm.trans hdec)
    exact exec_encodeFrame_eq_self hb (frameOf_decodeCmd hok)

end Sys2Proof.Machine
end

section
/-! SUPPORT. The invariant: every rule keeps it, and so does every step (spec/42_bootloader_commands.md R145 to R152,
43_session_sequencer.md R200 to R217, 60_exceptions.md R233, R236, R241). -/

namespace Sys2Proof.Machine

/-! ## What the invariant says of a session, phase by phase -/

/-- `SessInv` read by the phase the session is in, TSTATE apart. -/
def PhaseInv (s : State) : Prop :=
  match s.sstate with
  | .idle => noFailure s ∧ s.offset = 0 ∧ s.progress = 0
  | .query => noFailure s ∧ s.op = 0x00 ∧ s.size = 0 ∧ s.addr = 0 ∧ s.offset = 0 ∧ s.progress = 0
  | .erase => noFailure s ∧ s.op = 0x03 ∧ s.size.toNat = eraseRows s.infoRow ∧ s.addr = 0x000800 ∧ s.offset = 0 ∧
      s.progress = 0
  | .write => noFailure s ∧ s.op = 0x02 ∧ s.size = 0x0080 ∧ s.addr = s.offset ∧ pageAddr s.offset ∧
      s.progress = progressAt s.offset ∧ sentinelSet s
  | .verify => noFailure s ∧ s.op = 0x08 ∧ s.size = verifyLen s.offset ∧ s.addr = s.offset ∧ windowStart s.offset ∧
      s.progress = 100 ∧ sentinelSet s
  | .reset => noFailure s ∧ s.op = 0x09 ∧ s.size = 0 ∧ s.addr = 0 ∧ s.offset = verifiedEnd ∧ s.progress = 100 ∧
      sentinelSet s
  | .done => noFailure s ∧ s.offset = verifiedEnd ∧ s.progress = 100 ∧ sentinelSet s
  | .failed => failurePair s.failPhase s.failCause = true ∧ failureOffset s

theorem sessInv_iff (s : State) :
    SessInv s ↔ (sessionActive s.sstate = true → s.tstate ≠ .idle) ∧ PhaseInv s := by
  unfold SessInv PhaseInv
  cases s.sstate <;> simp [sessionActive]

theorem Inv.imgWf {s : State} (h : Inv s) : Memory.wf s.img = true := h.1

theorem Inv.phaseInv {s : State} (h : Inv s) : PhaseInv s := by
  obtain ⟨-, -, hsess⟩ := h
  exact ((sessInv_iff s).mp hsess).2

/-- With no transaction and no session running, only the session's record and IMG count. -/
theorem inv_of_idle {s : State} (hwf : Memory.wf s.img = true) (ht : s.tstate = .idle)
    (ha : sessionActive s.sstate = false) (h : PhaseInv s) : Inv s := by
  refine ⟨hwf, ?_, (sessInv_iff s).mpr ⟨?_, h⟩⟩
  · simp [TxnInv, ht]
  · simp [ha]

theorem inv_launch {s : State} (hwf : Memory.wf s.img = true) (hop : supported s.op = true)
    (hr : s.op = 0x02 → inImage s.addr.toNat s.size.toNat = true) (h : PhaseInv s) : Inv (launch s) :=
  ⟨hwf, ⟨fun _ => ⟨hop, Nat.zero_lt_succ 9, rfl, hr⟩, nofun, nofun⟩, (sessInv_iff (launch s)).mpr ⟨fun _ => nofun, h⟩⟩


/-! ## A failure and an abort -/

/-- Where a failure in a running phase leaves OFFSET (R236). -/
theorem failureOffset_of_phase {s : State} (ha : sessionActive s.sstate = true) (h : PhaseInv s) (res : Cause) :
    failureOffset (fail (phaseOf s.sstate) res s) := by
  unfold PhaseInv at h
  cases hs : s.sstate with
  | idle | done | failed => simp [hs, sessionActive] at ha
  | query | erase | verify | reset =>
    simp only [hs] at h
    simp [failureOffset, phaseOf, h]
  | write =>
    simp only [hs] at h
    obtain ⟨-, -, -, -, hpage, -⟩ := h
    exact ⟨nofun, fun _ => hpage, nofun, nofun⟩

theorem phaseInv_fail {phase : Phase} {cause : Cause} {s : State} (hpair : failurePair phase cause = true)
    (hoff : failureOffset (fail phase cause s)) : PhaseInv (fail phase cause s) := ⟨hpair, hoff⟩

/-- An abort records a pair of R233 in a session, and changes nothing that counts outside one. -/
theorem inv_abortTxn {res : Cause} {s : State} (hwf : Memory.wf s.img = true) (h : PhaseInv s)
    (hres : sessionActive s.sstate = true → failurePair (phaseOf s.sstate) res = true) : Inv (abortTxn res s) := by
  unfold abortTxn
  split_ifs with ha
  · exact inv_of_idle hwf rfl rfl (phaseInv_fail (hres ha) (failureOffset_of_phase ha h res))
  · exact inv_of_idle hwf rfl (Bool.eq_false_of_not_eq_true ha) h

/-- Starting a transaction outside a session (R140). -/
theorem inv_startTxn_of_inactive {s : State} (hwf : Memory.wf s.img = true) (ha : sessionActive s.sstate = false)
    (h : PhaseInv s) : Inv (startTxn s) := by
  rcases startTxn_cases s with ⟨-, hstart⟩ | ⟨-, -, hstart⟩ | ⟨hop, hr, hstart⟩ <;> rw [hstart]
  · exact inv_abortTxn hwf h (by simp [ha])
  · exact inv_abortTxn hwf h (by simp [ha])
  · exact inv_launch hwf hop hr h

/-! ## The good end of each phase's transaction -/

/-- Issuing a command without a payload: the phase's facts must hold with its operands loaded. -/
theorem inv_issue {op : Byte} {size : Half} {addr : Addr} {s : State} (hwf : Memory.wf s.img = true)
    (hop : supported op = true) (hne : op ≠ 0x02) (h : PhaseInv (loadOperands op size addr s)) :
    Inv (issue op size addr s) := by
  rw [issue, startTxn_launch hop fun hw => absurd hw hne]
  exact inv_launch hwf hop (fun hw => absurd hw hne) h

/-- S_QUERY: the erase is issued, or the session fails with E_PARAM (R204). -/
theorem inv_eraseIssue {s : State} (hwf : Memory.wf s.img = true) (ht : s.tstate = .idle) (hfail : noFailure s)
    (hoff : s.offset = 0) (hprog : s.progress = 0) : Inv (eraseIssue s) := by
  have hparam : Inv (fail .erase .eParam s) :=
    inv_of_idle hwf ht rfl (phaseInv_fail rfl (by simp [failureOffset, hoff]))
  unfold eraseIssue
  split_ifs with hrow hrows
  · exact hparam
  · exact hparam
  · refine inv_issue hwf rfl (by decide) ⟨hfail, rfl, ?_, rfl, hoff, hprog⟩
    exact Nat.mod_eq_of_lt (by omega)

/-- S_ERASE: the sentinel is written and the first page is issued (R205). -/
theorem inv_firstPage {s : State} (hwf : Memory.wf s.img = true) (hfail : noFailure s) :
    Inv (issuePage (firstPage s)) := by
  obtain ⟨hfp, hfc⟩ := hfail
  have hpage : pageAddr 0x000800 := by decide
  have hprog : 0 = progressAt 0x000800 := by decide
  have hsent : sentinelSet (firstPage s) := cellRead_cellWrite_same hwf _ _
  have hphase : PhaseInv (loadOperands 0x02 0x0080 0x000800 (firstPage s)) := by
    simp only [PhaseInv, firstPage, enterPhase_sstate, loadOperands_sstate]
    exact ⟨⟨by simpa using hfp, by simpa using hfc⟩, rfl, rfl, rfl, hpage, hprog, hsent⟩
  rw [issuePage_firstPage]
  exact inv_launch (wf_cellWrite _ hwf (by decide)) rfl (fun _ => rfl) hphase

/-- The next page's address, computed without wrapping. -/
theorem nextPage_offset_toNat {s : State} (hp : pageAddr s.offset) : (nextPage s).offset.toNat = s.offset.toNat + 0x80 := by
  obtain ⟨-, hhi, -⟩ := hp
  rw [Config.winEnd] at hhi
  rw [nextPage_offset, Config.page]
  bv_omega

/-- A page with no room for another behind it ends where the window ends. -/
theorem pageAddr_last {o : Addr} (hp : pageAddr o) (h : ¬ o.toNat + 0x80 < 0x20000) : o.toNat + 0x80 = 0x20000 := by
  simp only [pageAddr, Config.winStart, Config.winEnd, Config.page] at hp
  omega

/-- S_WRITE before the last page: the next page is issued (R207). -/
theorem afterPage_of_more {s : State} (hop : s.op = 0x02) (hsize : s.size = 0x0080) (hp : pageAddr s.offset)
    (hmore : s.offset.toNat + 0x80 < 0x20000) :
    afterPage s = launch (loadAddr (nextPage s).offset (nextPage s)) := by
  have hnext := nextPage_offset_toNat hp
  have hin : inImage (nextPage s).offset.toNat s.size.toNat = true := by
    rw [inImage_iff, hnext, hsize]
    bv_omega
  have hsup : supported (loadAddr (nextPage s).offset (nextPage s)).op = true := by simp [hop, supported]
  have hwin : (nextPage s).offset.toNat < Config.winEnd := hnext ▸ hmore
  rw [afterPage, if_pos hwin, startTxn_launch hsup fun _ => hin]

/-- S_WRITE after the last page: the first verify window is issued (R208). -/
theorem afterPage_of_last {s : State} (hp : pageAddr s.offset) (hlast : s.offset.toNat + 0x80 = 0x20000) :
    afterPage s = launch (loadOperands 0x08 0xFFF0 0x000800
      (enterPhase .verify (setOffset 0x000800 (nextPage s)))) := by
  have hnext := nextPage_offset_toNat hp
  have hwin : ¬ (nextPage s).offset.toNat < Config.winEnd := by
    rw [hnext, hlast]
    decide
  rw [afterPage, if_neg hwin]
  exact startTxn_launch (s := loadOperands 0x08 0xFFF0 0x000800 (enterPhase .verify (setOffset 0x000800 (nextPage s))))
    rfl (absurd · (show (0x08 : Byte) ≠ 0x02 by decide))

/-- After the last page the progress is 100. -/
theorem nextPage_progress_of_last {s : State} (hp : pageAddr s.offset) (hlast : s.offset.toNat + 0x80 = 0x20000) :
    (nextPage s).progress = 100 := by
  have hnext : (nextPage s).offset.toNat = 0x20000 := (nextPage_offset_toNat hp).trans hlast
  have hoff : (nextPage s).offset = 0x20000 := BitVec.eq_of_toNat_eq hnext
  change progressAt (nextPage s).offset = 100
  rw [hoff]
  rfl

/-- The first verify window is issued with the session's facts kept (R208). -/
theorem inv_firstWindow {s : State} (hwf : Memory.wf s.img = true) (hfail : noFailure s) (hprog : s.progress = 100)
    (hsent : sentinelSet s) :
    Inv (launch (loadOperands 0x08 0xFFF0 0x000800 (enterPhase .verify (setOffset 0x000800 s)))) := by
  have hlen : 0xFFF0 = verifyLen 0x000800 := by decide
  exact inv_launch hwf rfl (absurd · (show (0x08 : Byte) ≠ 0x02 by decide))
    ⟨hfail, rfl, hlen, rfl, .inl rfl, hprog, hsent⟩

theorem inv_afterPage {s : State} (hwf : Memory.wf s.img = true) (hs : s.sstate = .write) (h : PhaseInv s) :
    Inv (afterPage s) := by
  simp only [PhaseInv, hs] at h
  obtain ⟨⟨hfp, hfc⟩, hop, hsize, -, hp, -, hsent⟩ := h
  by_cases hmore : s.offset.toNat + 0x80 < 0x20000
  · have hnext := nextPage_offset_toNat hp
    have hpage : pageAddr (nextPage s).offset := by
      simp only [pageAddr, hnext, Config.winStart, Config.winEnd, Config.page] at hp ⊢
      omega
    rw [afterPage_of_more hop hsize hp hmore]
    refine inv_launch hwf (by simp [hop, supported]) (fun _ => ?_) ?_
    · rw [inImage_iff, loadAddr_addr, loadAddr_size, nextPage_size, hnext, hsize]
      bv_omega
    · simp only [PhaseInv, loadAddr_sstate, nextPage_sstate, hs]
      exact ⟨⟨hfp, hfc⟩, hop, hsize, rfl, hpage, rfl, hsent⟩
  · have hlast := pageAddr_last hp hmore
    rw [afterPage_of_last hp hlast]
    refine inv_firstWindow ?_ ?_ (nextPage_progress_of_last hp hlast) ?_
    · rw [nextPage_img]
      exact hwf
    · rw [noFailure, nextPage_failPhase, nextPage_failCause]
      exact ⟨hfp, hfc⟩
    · rw [sentinelSet, nextPage_img]
      exact hsent

/-- S_VERIFY: the second window follows the first, the device's reset follows the second (R209, R210). -/
theorem inv_nextWindow {s : State} (hwf : Memory.wf s.img = true) (hs : s.sstate = .verify) (h : PhaseInv s) :
    Inv (nextWindow s) := by
  simp only [PhaseInv, hs] at h
  obtain ⟨hfail, -, hsize, -, hstart, hprog, hsent⟩ := h
  rcases hstart with hoff | hoff
  · have hend : s.offset + s.size.setWidth 24 = 0x0107F0 := by rw [hsize, hoff]; rfl
    rw [nextWindow, hend, if_pos (by decide), issueVerify]
    refine inv_issue hwf rfl (by decide) ?_
    simp only [PhaseInv, loadOperands_sstate, setOffset_sstate, hs]
    exact ⟨hfail, rfl, rfl, rfl, .inr rfl, hprog, hsent⟩
  · have hend : s.offset + s.size.setWidth 24 = verifiedEnd := by rw [hsize, hoff]; rfl
    rw [nextWindow, hend, if_neg (by decide)]
    exact inv_issue hwf rfl (by decide) ⟨hfail, rfl, rfl, rfl, rfl, hprog, hsent⟩

@[simp] theorem localChecksum_sstate (s : State) : (localChecksum s).sstate = s.sstate :=
  localChecksum_keeps (·.sstate) (fun _ _ _ _ _ => rfl) s

@[simp] theorem localChecksum_tstate (s : State) : (localChecksum s).tstate = s.tstate :=
  localChecksum_keeps (·.tstate) (fun _ _ _ _ _ => rfl) s

/-- The checksum of a window writes nothing that counts. -/
theorem phaseInv_localChecksum {s : State} (h : PhaseInv s) : PhaseInv (localChecksum s) :=
  (localChecksum_keeps PhaseInv (fun _ _ _ _ _ => rfl) s).mpr h


/-! ## The end of a transaction -/

/-- The end of a transaction keeps the invariant, whatever TSTATE was: a bad result must be one that R233 allows. -/
theorem inv_complete {res : Cause} {s t : State} (hwf : Memory.wf s.img = true) (h : PhaseInv s)
    (hres : res ≠ .eNone → sessionActive s.sstate = true → failurePair (phaseOf s.sstate) res = true)
    (hc : complete res s = .next t) : Inv t := by
  by_cases hr : res = .eNone
  · subst hr
    have hend : PhaseInv (endTxn .eNone s) := h
    have hsum : PhaseInv (localChecksum (endTxn .eNone s)) := phaseInv_localChecksum hend
    have hsumwf : Memory.wf (localChecksum (endTxn .eNone s)).img = true := by rwa [localChecksum_img]
    have hsums : (localChecksum (endTxn .eNone s)).sstate = s.sstate := by simp
    rcases complete_good_cases hc with ⟨ha, rfl⟩ | ⟨hs, rfl⟩ | ⟨hs, rfl⟩ | ⟨hs, rfl⟩ | ⟨hs, -, -, rfl⟩ | ⟨hs, -, -, rfl⟩ |
      ⟨hs, rfl⟩
    · exact inv_of_idle hwf rfl ha hend
    · simp only [PhaseInv, hs] at h
      obtain ⟨hfail, -, -, -, hoff, hprog⟩ := h
      exact inv_eraseIssue hwf rfl hfail hoff hprog
    · simp only [PhaseInv, hs] at h
      obtain ⟨hfail, -⟩ := h
      exact inv_firstPage hwf hfail
    · exact inv_afterPage hwf hs hend
    · rw [hs] at hsums
      have hoff := failureOffset_of_phase (by rw [hsums]; rfl) hsum .eCsum
      rw [hsums] at hoff
      exact inv_of_idle hsumwf (by simp) rfl (phaseInv_fail rfl hoff)
    · exact inv_nextWindow hsumwf (hsums.trans hs) hsum
    · simp only [PhaseInv, hs] at h
      obtain ⟨hfail, -, -, -, hoff, hprog, hsent⟩ := h
      exact inv_of_idle hwf rfl rfl ⟨hfail, hoff, hprog, hsent⟩
  · rw [complete_of_failure hr] at hc
    obtain rfl := Host.Outcome.next.inj hc
    exact inv_abortTxn hwf h (hres hr)

/-! ## Sending -/

/-- With a transaction running, the engine's bounds and the session's facts are the invariant. -/
theorem inv_of_running {s : State} (hwf : Memory.wf s.img = true) (ht : s.tstate ≠ .idle) (htxn : TxnInv s)
    (h : PhaseInv s) : Inv s := ⟨hwf, htxn, (sessInv_iff s).mpr ⟨fun _ => ht, h⟩⟩

/-- A receive wait's timeout is a number of ticks that TIMER holds (R144). -/
theorem timeoutTicks_bounds {op : Byte} {k : Nat} (h : timeoutTicks op = some k) : 1 ≤ k ∧ k < 8192 := by
  rcases timeoutTicks_eq_some h with ⟨-, rfl, -⟩ | ⟨-, rfl, -⟩ | ⟨-, rfl, -⟩ | ⟨-, rfl, -⟩ <;> decide

theorem inv_txDone {s t : State} (hwf : Memory.wf s.img = true) (h : PhaseInv s) (hc : s.rcnt = 0)
    (hd : txDone s = .next t) : Inv t := by
  rcases txDone_cases hd with ⟨-, hgood⟩ | ⟨n, k, hn, hk, rfl⟩
  · exact inv_complete hwf h (absurd rfl) hgood
  · obtain ⟨hpos, hfit⟩ := timeoutTicks_bounds hk
    have htimer : (enterRx k s).timer.toNat = k := Nat.mod_eq_of_lt hfit
    refine inv_of_running hwf nofun ⟨nofun, nofun, fun _ => ?_⟩ h
    rw [htimer, enterRx_op, enterRx_rcnt, hn, hk, hc]
    simp only [Option.getD_some]
    exact ⟨Nat.succ_pos n, hpos, le_rfl⟩

theorem inv_txAccept {s t : State} (h : Inv s) (htx : txAccept s = .next t) : Inv t := by
  have hphase := h.phaseInv
  obtain ⟨hwf, ⟨htxf, htxd, -⟩, -⟩ := h
  rcases txAccept_cases htx with ⟨b, hs, -, hf⟩ | ⟨b, hs, -, hp⟩
  · obtain ⟨hop, hidx, hc, hr⟩ := htxf hs
    simp only [Config.frameLen] at hidx
    have hcount : (acceptByte b s).idx.toNat = s.idx.toNat + 1 := by
      rw [acceptByte_idx]
      bv_omega
    rcases afterFrameByte_cases hf with ⟨hmore, rfl⟩ | ⟨-, hw, hsize, rfl⟩ | ⟨-, -, hd⟩
    · refine inv_of_running hwf (by simp [hs]) ⟨fun _ => ⟨hop, ?_, hc, hr⟩, by simp [hs], by simp [hs]⟩ hphase
      rw [hcount] at hmore ⊢
      simp only [Config.frameLen] at hmore ⊢
      omega
    · refine inv_of_running hwf nofun ⟨nofun, fun _ => ⟨hw, ?_, hc, hr hw⟩, nofun⟩ hphase
      exact Nat.pos_of_ne_zero fun h0 => hsize (BitVec.eq_of_toNat_eq h0)
    · exact inv_txDone (s := acceptByte b s) hwf hphase hc hd
  · obtain ⟨hop, hidx, hc, hr⟩ := htxd hs
    have hcount : (acceptByte b s).idx.toNat = s.idx.toNat + 1 := by
      rw [acceptByte_idx]
      bv_omega
    rcases afterPayloadByte_cases hp with ⟨hmore, rfl⟩ | ⟨-, hd⟩
    · refine inv_of_running hwf (by simp [hs]) ⟨by simp [hs], fun _ => ⟨hop, ?_, hc, hr⟩, by simp [hs]⟩ hphase
      have hne : (acceptByte b s).idx.toNat ≠ s.size.toNat := fun he => hmore (BitVec.eq_of_toNat_eq he)
      rw [hcount] at hne ⊢
      exact Nat.lt_of_le_of_ne hidx hne
    · exact inv_txDone (s := acceptByte b s) hwf hphase hc hd

/-- A channel that takes no byte can end every phase (R233). -/
theorem failurePair_eIoTx {ss : SState} (ha : sessionActive ss = true) : failurePair (phaseOf ss) .eIoTx = true := by
  cases ss with
  | idle | done | failed => cases ha
  | query | erase | write | verify | reset => rfl

/-! ## Receiving -/

/-- There is no receive wait in the reset phase: the device's Reset has no response (R143, R160). -/
theorem ne_reset_of_rx {s : State} (h : Inv s) (hs : s.tstate = .rx) : s.sstate ≠ .reset := by
  intro hr
  have hphase := h.phaseInv
  obtain ⟨-, ⟨-, -, hrx⟩, -⟩ := h
  obtain ⟨hc, -⟩ := hrx hs
  simp only [PhaseInv, hr] at hphase
  obtain ⟨-, hop, -⟩ := hphase
  rw [hop] at hc
  exact absurd hc (Nat.not_lt_zero _)

/-- The two ways a receive wait goes wrong are pairs of R233 in every other phase. -/
theorem failurePair_of_rx {s : State} (h : Inv s) (hs : s.tstate = .rx) (ha : sessionActive s.sstate = true) :
    failurePair (phaseOf s.sstate) .eTimeout = true ∧ failurePair (phaseOf s.sstate) .eIoRx = true := by
  have hne := ne_reset_of_rx h hs
  cases hss : s.sstate with
  | idle | done | failed => simp [hss, sessionActive] at ha
  | reset => exact absurd hss hne
  | query | erase | write | verify => exact ⟨rfl, rfl⟩

/-- The decoder of the sent opcode writes nothing that a phase rests on: INFO_ROW counts only while a FlashErase is in
flight. -/
theorem phaseInv_runDecoder {s : State} {fmt : RespFormat} (h : PhaseInv s) (hf : respFormat s.op = some fmt) :
    PhaseInv (runDecoder fmt s).1 := by
  cases fmt with
  | status | csum => exact h
  | version =>
    simp only [PhaseInv, runDecoder, decodeVersion_sstate] at h ⊢
    cases hs : s.sstate with
    | erase =>
      simp only [hs] at h
      obtain ⟨-, hop, -⟩ := h
      rw [hop] at hf
      cases hf
    | idle | query | write | verify | reset | done | failed =>
      simp only [hs] at h ⊢
      exact h

/-- E_PROTOCOL is a status response's result, so a session meets it in the phases erase and write only (R233). -/
theorem failurePair_of_runDecoder {s u : State} {fmt : RespFormat} (h : PhaseInv s) (hf : respFormat s.op = some fmt)
    (hr : (runDecoder fmt u).2 ≠ .eNone) (ha : sessionActive s.sstate = true) :
    failurePair (phaseOf s.sstate) (runDecoder fmt u).2 = true := by
  cases fmt with
  | version | csum => exact absurd rfl hr
  | status =>
    rcases statusResult_cases u with ⟨-, hres⟩ | ⟨-, hres⟩
    · exact absurd hres hr
    · simp only [runDecoder, hres]
      unfold PhaseInv at h
      cases hs : s.sstate with
      | idle | done | failed => simp [hs, sessionActive] at ha
      | erase | write => rfl
      | query | verify | reset =>
        simp only [hs] at h
        obtain ⟨-, hop, -⟩ := h
        rw [hop] at hf
        cases hf

theorem inv_rxByte {b : Byte} {s t : State} (h : Inv s) (hb : rxByte b s = .next t) : Inv t := by
  have hphase := h.phaseInv
  obtain ⟨hwf, ⟨-, -, hrx⟩, -⟩ := h
  obtain ⟨k, n, fmt, hs, hlt, hk, hn, hf, ⟨hmore, rfl⟩ | ⟨-, hc⟩⟩ := rxByte_cases hb
  · obtain ⟨hc, -⟩ := hrx hs
    rw [hn, Option.getD_some] at hc
    have hcount : (storeByte b k s).rcnt.toNat = s.rcnt.toNat + 1 := by
      rw [storeByte_rcnt]
      bv_omega
    obtain ⟨hpos, hfit⟩ := timeoutTicks_bounds hk
    have htimer : (storeByte b k s).timer.toNat = k := Nat.mod_eq_of_lt hfit
    refine inv_of_running hwf (by simp [hs]) ⟨by simp [hs], by simp [hs], fun _ => ?_⟩ hphase
    rw [htimer, storeByte_op, hn, hk, hcount]
    rw [hcount] at hmore
    simp only [Option.getD_some]
    exact ⟨by omega, hpos, le_rfl⟩
  · refine inv_complete ?_ (phaseInv_runDecoder (s := storeByte b k s) hphase hf) (fun hr ha => ?_) hc
    · cases fmt <;> exact hwf
    · have hss : (runDecoder fmt (storeByte b k s)).1.sstate = s.sstate := by cases fmt <;> rfl
      rw [hss] at ha ⊢
      exact failurePair_of_runDecoder hphase hf hr ha

theorem inv_tick {s t : State} (h : Inv s) (ht : tick s = .next t) : Inv t := by
  rcases tick_cases ht with ⟨-, rfl⟩ | ⟨hs, hne, rfl⟩ | ⟨hs, -, rfl⟩
  · exact h
  · have hphase := h.phaseInv
    obtain ⟨hwf, ⟨-, -, hrx⟩, -⟩ := h
    obtain ⟨hc, hlo, hhi⟩ := hrx hs
    have hpos : (s.timer - 1).toNat ≠ 0 := fun h0 => hne (BitVec.eq_of_toNat_eq h0)
    have hle : (s.timer - 1).toNat ≤ s.timer.toNat := by bv_omega
    refine inv_of_running hwf (by simp [hs]) ⟨by simp [hs], by simp [hs], fun _ => ⟨hc, ?_, ?_⟩⟩ hphase
    · exact Nat.one_le_iff_ne_zero.mpr hpos
    · exact hle.trans hhi
  · exact inv_abortTxn (s := countDown s) h.imgWf h.phaseInv fun ha => (failurePair_of_rx h hs ha).1

/-! ## The host -/

/-- What the invariant reads in a block that is not busy. -/
def restingView (s : State) : TState × SState × Phase × Cause × Addr × BitVec 7 × Memory :=
  (s.tstate, s.sstate, s.failPhase, s.failCause, s.offset, s.progress, s.img)

/-- The facts of a phase in which no session runs are facts about that view. -/
theorem inv_of_restingView {s t : State} (h : Inv s) (hb : busy s = false) (hv : restingView t = restingView s) :
    Inv t := by
  have hphase := h.phaseInv
  have ha := sessionActive_of_not_busy hb
  have hidle : s.tstate = .idle := by simpa [busy, ha] using hb
  simp only [restingView, Prod.mk.injEq] at hv
  obtain ⟨ht, hss, hph, hca, hoff, hprog, himg⟩ := hv
  refine inv_of_idle (himg ▸ h.imgWf) (ht.trans hidle) (hss ▸ ha) ?_
  simp only [PhaseInv, hss] at hphase ⊢
  cases hs : s.sstate with
  | query | erase | write | verify | reset => simp [hs, sessionActive] at ha
  | idle | done | failed => simpa only [hs, noFailure, failureOffset, sentinelSet, hph, hca, hoff, hprog, himg] using hphase

theorem inv_refuse {s : State} (h : Inv s) : Inv (refuse s) := h

theorem inv_returnData {s : State} (h : Inv s) (v : Word) : Inv (returnData v s) := h

theorem inv_setPending {s : State} (h : Inv s) (es : List Event) : Inv (setPending es s) := h

theorem inv_resetBlock {s : State} (h : Inv s) : Inv (resetBlock s) :=
  inv_of_idle h.imgWf rfl rfl ⟨⟨rfl, rfl⟩, rfl, rfl⟩

/-- A guarded rule keeps the invariant when the rule itself does in a block that is not busy. -/
theorem inv_of_guard {s t : State} (h : Inv s) (ht : busy s = false → Inv t) :
    Inv (if busy s then refuse s else t) := by
  split_ifs with hb
  · exact inv_refuse h
  · exact ht (Bool.eq_false_of_not_eq_true hb)

theorem csPushAll_restingView (bs : List Byte) (s : State) : restingView (csPushAll bs s) = restingView s :=
  csPushAll_keeps restingView (fun _ _ _ _ _ => rfl) bs s

theorem inv_startSession {s : State} (h : Inv s) : Inv (startSession s) :=
  inv_issue h.imgWf rfl (by decide) ⟨⟨rfl, rfl⟩, rfl, rfl, rfl, rfl, rfl⟩

theorem inv_guarded {i : Instr} (hi : i ∈ guardedStrobes) {s t : State} (h : Inv s) (he : exec i s = .next t) :
    Inv t := by
  rcases guardedStrobes_cases hi with rfl | rfl | rfl | rfl | rfl | rfl <;> obtain rfl := Host.Outcome.next.inj he
  · split_ifs
    · exact inv_refuse h
    · exact inv_startSession h
  · exact inv_of_guard h fun hb => inv_startTxn_of_inactive h.imgWf (sessionActive_of_not_busy hb) h.phaseInv
  · exact inv_of_guard h fun hb => inv_of_restingView h hb rfl
  · exact inv_of_guard h fun hb => inv_of_restingView h hb rfl
  · exact inv_of_guard h fun hb => inv_of_restingView h hb rfl
  · refine inv_of_guard h fun hb => ?_
    split_ifs
    · exact inv_of_restingView h hb (csPushAll_restingView _ s)
    · exact inv_refuse h

theorem inv_request {e : Event} {i : Instr} (hf : fetch e = .ok i) {s t : State} (h : Inv s)
    (he : exec i s = .next t) : Inv t := by
  rcases fetch_ok_cases hf with rfl | hi | ⟨b, rfl⟩
  · exact Host.Outcome.next.inj he ▸ inv_resetBlock h
  · exact inv_guarded hi h he
  · obtain rfl := Host.Outcome.next.inj he
    exact inv_of_guard h fun hb => inv_of_restingView h hb (csPushAll_restingView [b] s)

theorem storeOperand_restingView (i : Index) (v : Word) (s : State) :
    restingView (storeOperand i v s) = restingView s := by
  unfold storeOperand
  split_ifs <;> rfl

theorem inv_hostWriteOther {s : State} (h : Inv s) (i : Index) (v : Word) : Inv (hostWriteOther i v s) := by
  unfold hostWriteOther
  split
  case h_1 =>
    split_ifs
    · exact h
    · exact inv_refuse h
  case h_2 => exact inv_of_guard h fun hb => inv_of_restingView h hb (storeOperand_restingView i v s)
  all_goals exact inv_refuse h

theorem inv_hostRead {s : State} (h : Inv s) (i : Index) : Inv (hostRead i s) := by
  unfold hostRead
  split
  · exact inv_returnData h _
  · exact inv_refuse (inv_returnData h 0)

/-! ## The step -/

theorem inv_perform {e : Event} {s t : State} (h : Inv s) (he : perform e s = .next t) : Inv t := by
  cases e with
  | reset => exact Host.Outcome.next.inj he ▸ inv_resetBlock h
  | hostWrite i v => exact Host.Outcome.next.inj he ▸ inv_hostWriteOther h i v
  | hostRead i => exact Host.Outcome.next.inj he ▸ inv_hostRead h i
  | txAccept => exact inv_txAccept h he
  | txFail =>
    obtain ⟨-, rfl⟩ := txFail_cases he
    exact inv_abortTxn h.imgWf h.phaseInv failurePair_eIoTx
  | rxByte b => exact inv_rxByte h he
  | rxError =>
    obtain ⟨hs, rfl⟩ := rxError_cases he
    exact inv_abortTxn h.imgWf h.phaseInv fun ha => (failurePair_of_rx h hs ha).2
  | tick => exact inv_tick h he

/-- Settles O51: a step executes a request or performs an event, and each keeps the invariant. -/
theorem everyStepKeepsInv : Obligations.EveryStepKeepsInv := by
  intro s t h hstep
  rcases step_cases s with ⟨-, hnone⟩ | ⟨e, rest, i, -, hf, hexec⟩ | ⟨e, rest, err, -, -, hperf⟩
  · rw [hnone] at hstep
    exact Host.Outcome.next.inj hstep ▸ h
  · exact inv_request hf (inv_setPending h rest) (hexec ▸ hstep)
  · exact inv_perform (inv_setPending h rest) (hperf ▸ hstep)

end Sys2Proof.Machine
end

section
/-! SUPPORT. One transaction event by event: the engine's tables, CMD, sending, the ends of a transaction and the byte
received (spec/42_bootloader_commands.md R140 to R151, R161). -/

namespace Sys2Proof.Machine

/-! ## The engine's tables (R141 to R144) -/

theorem wrOf_eq_decide (p : Bool) (op : Byte) :
    wrOf p op = (decide (op = 0x02) || (decide (op = 0x03) && p) || decide (op = 0x07)) := by
  unfold wrOf
  split_ifs with h2 h3 h7
  · simp [h2]
  · simp [h3]
  · simp [h7]
  · simp_all

/-- An opcode the engine does not run has none of the values of R143 and R144. -/
theorem tables_of_unsupported {op : Byte} (h : supported op = false) : respLen op = none ∧ timeoutTicks op = none := by
  have hne : ¬(op = 0x00 ∨ op = 0x02 ∨ op = 0x03 ∨ op = 0x08 ∨ op = 0x09) := by
    rw [← supported_iff, h]
    exact Bool.false_ne_true
  obtain ⟨h0, h2, h3, h8, h9⟩ : op ≠ 0x00 ∧ op ≠ 0x02 ∧ op ≠ 0x03 ∧ op ≠ 0x08 ∧ op ≠ 0x09 := by tauto
  simp only [respLen, timeoutTicks, opGetVersion_eq, opFlashWrite_eq, opFlashErase_eq, opChecksum_eq, opReset_eq, h0, h2, h3,
    h8, h9, if_false, and_self]

/-- Settles O15: the defined entries by evaluation, the undefined ones for every unsupported opcode at once. -/
theorem engineTables : Obligations.EngineTables := by
  refine ⟨fun op => ?_, wrOf_eq_decide, rfl, rfl, rfl, rfl, rfl, fun op h => (tables_of_unsupported h).1, rfl, rfl, rfl,
    rfl, rfl, fun op h => (tables_of_unsupported h).2⟩
  rw [supported_iff]
  simp

/-! ## CMD (R140, R145) -/

theorem exec_cmd_idle {s : State} (h : busy s = false) : exec .cmd s = .next (startTxn s) := by
  rw [exec, execCmd, h, if_neg Bool.false_ne_true]

theorem exec_cmd_unsupported {s : State} (hb : busy s = false) (hop : supported s.op = false) :
    exec .cmd s = .next (endTxn .eUnsup s) := by
  rw [exec_cmd_idle hb, startTxn_of_unsupported hop, abortTxn_of_idle (sessionActive_of_not_busy hb)]

/-- Settles O16: refused while busy as every guarded strobe is, else the three branches of `start_txn()`. -/
theorem cmdResult : Obligations.CmdResult := by
  refine ⟨rfl, fun s => ⟨fun hb => exec_guarded_busy (by decide) hb, exec_cmd_unsupported, fun hb hop hout => ?_,
    fun hb hop hin => ?_⟩⟩
  · have hrange : inImage s.addr.toNat s.size.toNat = false := decide_eq_false (Nat.not_le.mpr hout)
    rw [exec_cmd_idle hb, startTxn_of_range hop hrange, abortTxn_of_idle (sessionActive_of_not_busy hb)]
    rfl
  · rw [exec_cmd_idle hb, startTxn_launch hop fun h => (inImage_iff _ _).mpr (hin h)]
    rfl

/-- The values of R80 are neither run nor named. -/
theorem reserved_opcode {op : Byte} (h : op = 0x04 ∨ op = 0x05 ∨ 0x0A ≤ op.toNat) :
    supported op = false ∧ knownOpcode op = false := by
  revert op
  decide

/-- Settles O17: CMD finds no such opcode, and DECODE of the built frame recovers it as not known. -/
theorem reservedOpcodes : Obligations.ReservedOpcodes := by
  intro s hb hop
  obtain ⟨hsup, hknown⟩ := reserved_opcode hop
  have hb' : busy (buildFrame s) = false := hb
  refine ⟨exec_cmd_unsupported hb hsup, buildFrame s, exec_encodeFrame_idle hb, rfl, takeFrame (buildFrame s),
    exec_decodeFrame_idle hb', rfl, hknown⟩

/-! ## Sending (R146 to R149) -/

/-- Settles O23: the byte on offer is FB's or the image's, and what follows it is told by the index. -/
theorem txAcceptResult : Obligations.TxAcceptResult := by
  refine ⟨fun s h hs => ?_, fun s hs hr => ?_⟩
  · have hoffer : s.fb.toList[s.idx.toNat]? = some s.fb[s.idx.toNat] := by simp [h]
    rw [txAccept_txf hs hoffer]
    have hlast (hidx : s.idx.toNat = 9) : (acceptByte s.fb[s.idx.toNat] s).idx = 10 := by
      rw [acceptByte_idx]
      bv_omega
    refine ⟨fun hidx => ?_, fun hidx hop hsize => ?_, fun hidx hno => ?_⟩
    · have hmore : (acceptByte s.fb[s.idx.toNat] s).idx.toNat ≠ Config.frameLen := by
        rw [acceptByte_idx, Config.frameLen]
        bv_omega
      rw [afterFrameByte, if_neg hmore]
      rfl
    · rw [afterFrameByte_payload (hlast hidx) ⟨hop, hsize⟩]
      rfl
    · rw [afterFrameByte_done (hlast hidx) fun ⟨hop, hsize⟩ => hno.elim (· hop) hsize]
      rfl
  · rw [txAccept_txd hs hr]
    exact ⟨fun hmore => if_neg hmore, fun hlast => if_pos hlast⟩

/-- Sending is done and a response is due: the receive wait begins with its full timeout (R148). -/
theorem txDone_of_wait {s : State} {n k : Nat} (hn : respLen s.op = some (n + 1)) (hk : timeoutTicks s.op = some k) :
    txDone s = .next (enterRx k s) := by
  simp only [txDone, hn, hk]

/-- Settles O24: the tables at the five opcodes. -/
theorem txDoneResult : Obligations.TxDoneResult := by
  refine fun s => ⟨fun hop => ?_, fun hop => ?_, ?_⟩
  · rw [txDone, hop]
    rfl
  · exact txDone_of_wait (k := 5000) (by rw [hop]; rfl) (by rw [hop]; rfl)
  · rintro (hop | hop | hop) <;> exact txDone_of_wait (k := 1000) (by rw [hop]; rfl) (by rw [hop]; rfl)

/-- The failure entry of a session whose transaction went wrong (R202, R236). -/
theorem complete_failure_of_active {res : Cause} {s : State} (hr : res ≠ .eNone) (ha : sessionActive s.sstate = true) :
    complete res s = .next (fail (phaseOf s.sstate) res (endTxn res s)) := by
  rw [complete_of_failure hr, abortTxn, if_pos ha]

/-- Settles O25: both events are `complete` with their own result. -/
theorem channelErrorsEndTheTransaction : Obligations.ChannelErrorsEndTheTransaction := by
  refine fun s => ⟨fun hs => ?_, fun hs => ?_⟩
  · have htx : txFail s = complete .eIoTx s := by rcases hs with hs | hs <;> simp only [txFail, hs]
    rw [htx]
    exact ⟨fun ha => complete_of_idle ha _, fun ha => complete_failure_of_active nofun ha⟩
  · have hrx : rxError s = complete .eIoRx s := by simp only [rxError, hs]
    rw [hrx]
    exact ⟨fun ha => complete_of_idle ha _, fun ha => complete_failure_of_active nofun ha⟩

/-! ## Receiving (R150) -/

/-- Settles O26: before the last byte it is only stored; the last one is found by the decoder where it was stored. -/
theorem rxByteResult : Obligations.RxByteResult := by
  intro s b n k hs hn hk hlt
  obtain ⟨fmt, hf⟩ : ∃ fmt, respFormat s.op = some fmt := by
    rcases timeoutTicks_eq_some hk with ⟨-, -, -, hf⟩ | ⟨-, -, -, hf⟩ | ⟨-, -, -, hf⟩ | ⟨-, -, -, hf⟩ <;> exact ⟨_, hf⟩
  obtain ⟨-, -, hlen⟩ := respFormat_eq_some hf
  obtain rfl : n = fmt.length := Option.some.inj (hn.symm.trans hlen)
  refine ⟨fun hmore => rxByte_of_more hs hf hk hmore b, fun hlast => ?_⟩
  rw [rxByte_of_last hs hf hk hlast b]
  refine ⟨fun hop => ?_, fun hop => ?_, fun hop => ?_⟩
  · obtain rfl : fmt = .version := by rw [hop] at hf; exact (Option.some.inj hf).symm
    rfl
  · obtain rfl : fmt = .status := by rcases hop with hop | hop <;> (rw [hop] at hf; exact (Option.some.inj hf).symm)
    have hidx : s.rcnt.toNat = 10 := Nat.succ.inj hlast
    have hb : (storeByte b k s).rb[10] = b := by simp [hidx]
    simp only [runDecoder, statusResult, decodeStatus, offStatus_eq, hb]
    rfl
  · obtain rfl : fmt = .csum := by rw [hop] at hf; exact (Option.some.inj hf).symm
    have hidx : s.rcnt.toNat = 11 := Nat.succ.inj hlast
    have hhi : (storeByte b k s).rb[10] = s.rb[10] := by simp [hidx]
    have hlo : (storeByte b k s).rb[11] = b := by simp [hidx]
    simp only [runDecoder, decodeCsum, offCsum_eq, hhi, hlo]
    rfl

end Sys2Proof.Machine
end

section
/-! SUPPORT. How long a receive wait lasts: the ticks of a silent channel, and the bound on a trickling one
(spec/60_exceptions.md R241, R242, 70_reset_and_hazards.md R268). -/

namespace Sys2Proof.Machine

/-! ## A silent wait -/

theorem step_tick (es : List Event) (s : State) : step (setPending (.tick :: es) s) = tick (setPending es s) := by
  rw [step_of_enabled rfl]
  rfl

theorem tick_of_more {s : State} (hs : s.tstate = .rx) (hne : s.timer - 1 ≠ 0) : tick s = .next (countDown s) := by
  simp only [tick, hs, countDown_timer, hne, if_false]

theorem tick_of_last {s : State} (hs : s.tstate = .rx) (h0 : s.timer - 1 = 0) :
    tick s = complete .eTimeout (countDown s) := by
  simp only [tick, hs, countDown_timer, h0, if_true]

/-- The wait after `k` ticks and no byte. -/
def waited (k : Nat) (s : State) : State := { s with timer := s.timer - BitVec.ofNat 13 k }

theorem waited_zero (s : State) : waited 0 s = s := by simp [waited]

theorem countDown_waited (k : Nat) (s : State) : countDown (waited k s) = waited (k + 1) s := by
  have htimer : s.timer - BitVec.ofNat 13 k - 1 = s.timer - BitVec.ofNat 13 (k + 1) := by bv_omega
  simp only [countDown, waited, htimer]

/-- One tick more, after `k` that only counted TIMER down. -/
theorem runSteps_tick_after {s : State} {k : Nat}
    (h : ∀ rest, runSteps k (setPending (List.replicate k .tick ++ rest) s) = .next (setPending rest (waited k s)))
    (rest : List Event) :
    runSteps (k + 1) (setPending (List.replicate (k + 1) .tick ++ rest) s) = tick (setPending rest (waited k s)) := by
  rw [List.replicate_succ', List.append_assoc, runSteps_add, h, andThen_next, List.singleton_append, runSteps_one, step_tick]

/-- Ticks that do not use TIMER up only count it down. -/
theorem runSteps_ticks {s : State} (hs : s.tstate = .rx) {k : Nat} (hk : k < s.timer.toNat) (rest : List Event) :
    runSteps k (setPending (List.replicate k .tick ++ rest) s) = .next (setPending rest (waited k s)) := by
  induction k generalizing rest with
  | zero =>
    rw [waited_zero]
    rfl
  | succ k ih =>
    have hmore : (waited k s).timer - 1 ≠ 0 := by
      rw [waited]
      bv_omega
    rw [runSteps_tick_after (ih (by omega)), tick_of_more (s := setPending rest (waited k s)) hs hmore, ← countDown_waited]
    rfl

/-- Settles O28: all ticks but the last count TIMER down, and the last one finds it at 1. -/
theorem waitRunsOutAfterItsTicks : Obligations.WaitRunsOutAfterItsTicks := by
  refine fun s rest hs hpos => ⟨fun k hk => runSteps_ticks hs hk rest, ?_⟩
  obtain ⟨k, hk⟩ := Nat.exists_eq_add_one_of_ne_zero fun h => hpos (BitVec.eq_of_toNat_eq h)
  have hlast : (waited k s).timer - 1 = 0 := by
    rw [waited]
    bv_omega
  have hrun := runSteps_tick_after (runSteps_ticks hs (k := k) (by omega)) rest
  rw [tick_of_last (s := setPending rest (waited k s)) hs hlast, countDown, setPending_timer, hlast, ← hk] at hrun
  exact hrun

/-! ## The bound on any wait -/

/-- The ticks left in a receive wait, with the engine's tables read. -/
theorem ticksLeft_of_rx {s : State} {n k : Nat} (hs : s.tstate = .rx) (hn : respLen s.op = some n)
    (hk : timeoutTicks s.op = some k) : ticksLeft s = s.timer.toNat + (n - s.rcnt.toNat - 1) * k := by
  rw [ticksLeft, if_pos hs, hn, hk]
  rfl

/-- In a receive wait of the invariant a byte is still due, and TIMER is between 1 and the timeout. -/
theorem rxBounds_of_inv {s : State} (h : Inv s) (hs : s.tstate = .rx) :
    ∃ n k, respLen s.op = some n ∧ timeoutTicks s.op = some k ∧ s.rcnt.toNat < n ∧ 1 ≤ s.timer.toNat ∧
      s.timer.toNat ≤ k := by
  obtain ⟨-, htxn, -⟩ := h
  obtain ⟨-, k, fmt, hk, hf⟩ := rxWait_of_txnInv htxn hs
  obtain ⟨-, -, hn⟩ := respFormat_eq_some hf
  obtain ⟨-, -, hrx⟩ := htxn
  have hbounds := hrx hs
  rw [hn, hk] at hbounds
  exact ⟨_, k, hn, hk, hbounds⟩

/-- At most one full timeout for each byte of the response (R268). -/
theorem ticksLeft_le {s : State} (h : Inv s) (hs : s.tstate = .rx) :
    ticksLeft s ≤ (respLen s.op).getD 0 * (timeoutTicks s.op).getD 0 := by
  obtain ⟨n, k, hn, hk, hc, -, hhi⟩ := rxBounds_of_inv h hs
  rw [ticksLeft_of_rx hs hn hk, hn, hk]
  calc s.timer.toNat + (n - s.rcnt.toNat - 1) * k
    _ ≤ k + (n - s.rcnt.toNat - 1) * k := Nat.add_le_add_right hhi _
    _ = (n - s.rcnt.toNat - 1 + 1) * k := by rw [Nat.succ_mul, Nat.add_comm]
    _ ≤ n * k := Nat.mul_le_mul_right k (by omega)

/-- A byte that is not the last uses up its own share of the bound, whatever was left of it. -/
theorem ticksLeft_storeByte {s : State} {n k : Nat} (hs : s.tstate = .rx) (hn : respLen s.op = some n)
    (hk : timeoutTicks s.op = some k) (hmore : s.rcnt.toNat + 1 < n) (hfit : s.rcnt.toNat < 26) (b : Byte) :
    ticksLeft (storeByte b k s) ≤ ticksLeft s := by
  obtain ⟨-, hticks⟩ := timeoutTicks_bounds hk
  have htimer : (storeByte b k s).timer.toNat = k := Nat.mod_eq_of_lt hticks
  have hcount : (storeByte b k s).rcnt.toNat = s.rcnt.toNat + 1 := by
    rw [storeByte_rcnt]
    bv_omega
  obtain ⟨m, hm⟩ : ∃ m, n = s.rcnt.toNat + 2 + m := Nat.exists_eq_add_of_le hmore
  rw [ticksLeft_of_rx (s := storeByte b k s) hs hn hk, ticksLeft_of_rx hs hn hk, htimer, hcount,
    show n - (s.rcnt.toNat + 1) - 1 = m by omega, show n - s.rcnt.toNat - 1 = m + 1 by omega, Nat.succ_mul]
  omega

theorem ticksLeft_countDown {s : State} (h : Inv s) (hs : s.tstate = .rx) : ticksLeft (countDown s) < ticksLeft s := by
  obtain ⟨n, k, hn, hk, -, hlo, -⟩ := rxBounds_of_inv h hs
  rw [ticksLeft_of_rx (s := countDown s) hs hn hk, ticksLeft_of_rx hs hn hk, countDown_timer, countDown_rcnt]
  have hless : (s.timer - 1).toNat < s.timer.toNat := by bv_omega
  omega

/-! ## What ends the wait -/

theorem abortTxn_tstate (res : Cause) (s : State) : (abortTxn res s).tstate = .idle := by
  unfold abortTxn
  split_ifs <;> rfl

theorem startTxn_ne_rx (s : State) : (startTxn s).tstate ≠ .rx := by
  rcases startTxn_cases s with ⟨-, h⟩ | ⟨-, -, h⟩ | ⟨-, -, h⟩ <;> rw [h]
  · simp [abortTxn_tstate]
  · simp [abortTxn_tstate]
  · nofun

/-- The end of a transaction leaves the block idle or sending the session's next command. -/
theorem complete_ne_rx {res : Cause} {s t : State} (h : complete res s = .next t) : t.tstate ≠ .rx := by
  by_cases hr : res = .eNone
  · subst hr
    rcases complete_good_cases h with ⟨-, rfl⟩ | ⟨-, rfl⟩ | ⟨-, rfl⟩ | ⟨-, rfl⟩ | ⟨-, -, -, rfl⟩ | ⟨-, -, -, rfl⟩ | ⟨-, rfl⟩
    · nofun
    · unfold eraseIssue
      split_ifs
      · nofun
      · nofun
      · exact startTxn_ne_rx _
    · exact startTxn_ne_rx _
    · unfold afterPage
      split_ifs <;> exact startTxn_ne_rx _
    · simp
    · unfold nextWindow
      split_ifs <;> exact startTxn_ne_rx _
    · nofun
  · rw [complete_of_failure hr] at h
    rw [← Host.Outcome.next.inj h, abortTxn_tstate]
    nofun

/-! ## What a step that stays in the wait does -/

/-- A request is refused, since the block is busy, or it is SRST. -/
theorem request_of_busy {e : Event} {i : Instr} (hf : fetch e = .ok i) {s t : State} (hb : busy s = true)
    (h : exec i s = .next t) : t = refuse s ∨ t = resetBlock s := by
  rcases fetch_ok_cases hf with rfl | hi | ⟨b, rfl⟩
  · exact .inr (Host.Outcome.next.inj h).symm
  · rw [exec_guarded_busy hi hb] at h
    exact .inl (Host.Outcome.next.inj h).symm
  · rw [exec_csPush_busy b hb] at h
    exact .inl (Host.Outcome.next.inj h).symm

theorem hostWriteOther_busy {s : State} (hb : busy s = true) (i : Index) (v : Word) :
    hostWriteOther i v s = s ∨ hostWriteOther i v s = refuse s := by
  unfold hostWriteOther
  split
  · split_ifs
    · exact .inl rfl
    · exact .inr rfl
  · exact .inr (if_pos hb)
  all_goals exact .inr rfl

theorem ticksLeft_hostRead (i : Index) (s : State) : ticksLeft (hostRead i s) = ticksLeft s := by
  unfold hostRead
  split <;> rfl

/-- An event that stays in the wait adds nothing to the bound, and a tick takes from it. -/
theorem ticksLeft_perform {e : Event} {s t : State} (h : Inv s) (hs : s.tstate = .rx) (he : perform e s = .next t)
    (ht : t.tstate = .rx) : ticksLeft t ≤ ticksLeft s ∧ (e = .tick → ticksLeft t < ticksLeft s) := by
  have hb : busy s = true := by simp [busy, hs]
  cases e with
  | reset =>
    rw [← Host.Outcome.next.inj he] at ht
    cases ht
  | hostWrite i v =>
    obtain rfl := Host.Outcome.next.inj he
    refine ⟨?_, nofun⟩
    rcases hostWriteOther_busy hb i v with hw | hw <;> rw [hw]
    exact le_rfl
  | hostRead i =>
    obtain rfl := Host.Outcome.next.inj he
    exact ⟨(ticksLeft_hostRead i s).le, nofun⟩
  | txAccept => rcases txAccept_cases he with ⟨_, htx, -⟩ | ⟨_, htx, -⟩ <;> simp [hs] at htx
  | txFail =>
    obtain ⟨htx, -⟩ := txFail_cases he
    simp [hs] at htx
  | rxByte b =>
    refine ⟨?_, nofun⟩
    obtain ⟨n', k', hn', hk', hc, -⟩ := rxBounds_of_inv h hs
    obtain ⟨k, n, fmt, -, hfit, hk, hn, -, ⟨hmore, rfl⟩ | ⟨-, hend⟩⟩ := rxByte_cases he
    · obtain rfl : n' = n := Option.some.inj (hn'.symm.trans hn)
      rw [storeByte_rcnt] at hmore
      exact ticksLeft_storeByte hs hn hk (by bv_omega) hfit b
    · exact absurd ht (complete_ne_rx hend)
  | rxError =>
    obtain ⟨-, rfl⟩ := rxError_cases he
    simp [abortTxn_tstate] at ht
  | tick =>
    rcases tick_cases he with ⟨hne, -⟩ | ⟨-, -, rfl⟩ | ⟨-, -, rfl⟩
    · exact absurd hs hne
    · have hless := ticksLeft_countDown h hs
      exact ⟨hless.le, fun _ => hless⟩
    · simp [abortTxn_tstate] at ht

/-- Settles O29: the bound of a state of the invariant, and what each step that stays in the wait does to it. -/
theorem receiveWaitIsBounded : Obligations.ReceiveWaitIsBounded := by
  intro s t h hs hstep ht
  refine ⟨ticksLeft_le h hs, ?_⟩
  rcases step_cases s with ⟨hnone, hstay⟩ | ⟨e, rest, i, ho, hf, hexec⟩ | ⟨e, rest, err, ho, -, hperf⟩
  · rw [hstay] at hstep
    obtain rfl := Host.Outcome.next.inj hstep
    refine ⟨le_rfl, fun ⟨rest, ho⟩ => ?_⟩
    simp [takeEvent, ho] at hnone
  · have hb : busy (setPending rest s) = true := by simp [busy, hs]
    refine ⟨?_, fun ⟨rest', ho'⟩ => ?_⟩
    · rcases request_of_busy hf hb (hexec ▸ hstep) with rfl | rfl
      · exact le_rfl
      · cases ht
    · rw [ho'] at ho
      cases ho
      cases hf
  · obtain ⟨hle, hlt⟩ := ticksLeft_perform (s := setPending rest s) (inv_setPending h rest) hs (hperf ▸ hstep) ht
    refine ⟨hle, fun ⟨rest', ho'⟩ => hlt ?_⟩
    rw [ho'] at ho
    cases ho
    rfl

end Sys2Proof.Machine
end

section
/-! SUPPORT. A page of a session, event by event: the frame and the 128 image bytes out, eleven bytes in, and what the status
byte decides (spec/43_session_sequencer.md R207, 42_bootloader_commands.md R146 to R150). -/

namespace Sys2Proof.Machine

/-- A response stored from the start of RB. -/
theorem storeBytes_of_fresh (k : Nat) {bs : List Byte} {s : State} (hc : s.rcnt = 0) (hne : bs ≠ [])
    (hfit : bs.length ≤ 26) : storeBytes k bs s = holding (storeFrom s.rb 0 bs) bs.length k s := by
  rw [storeBytes_eq k hne (by simpa [hc] using hfit), hc]
  simp [holding]

/-- A fresh receive wait for a status: its eleven bytes are stored and the transaction ends as the status byte says, in a
session or not. -/
theorem runSteps_status {s : State} {k : Nat} {header : List Byte} (hs : s.tstate = .rx) (hc : s.rcnt = 0)
    (hf : respFormat s.op = some .status) (hk : timeoutTicks s.op = some k) (hlen : header.length = 10) (status : Byte)
    (rest : List Event) :
    ∃ rb, runSteps 11 (setPending ((header ++ [status]).map .rxByte ++ rest) s) =
      complete (if status = 0x01 then .eNone else .eProtocol)
        { holding rb 11 k (setPending rest s) with rspStatus := status } := by
  have hbytes : (header ++ [status]).length = 11 := by simp [hlen]
  have hdue : s.rcnt.toNat + (header ++ [status]).length = RespFormat.status.length := by
    rw [hc, hbytes]
    rfl
  have hstore := storeBytes_of_fresh (bs := header ++ [status]) (s := setPending rest s) k hc (by simp) (by omega)
  have hrb := storeFrom_toList (header ++ [status]) (rb := s.rb) (k := 0) (by omega)
  rw [List.take_zero, List.nil_append, List.append_assoc, List.singleton_append] at hrb
  rw [hbytes] at hstore
  obtain ⟨hdec, hres⟩ := decodeStatus_of_bytes
    (s := holding (storeFrom s.rb 0 (header ++ [status])) 11 k (setPending rest s)) hlen hrb
  refine ⟨storeFrom s.rb 0 (header ++ [status]), ?_⟩
  rw [← hbytes, runSteps_rxBytes _ rest hs hf hdue, rxBytes_of_due (s := setPending rest s) hs hf hk (by simp) hdue, hbytes,
    hstore, runDecoder, setPending_rb, hdec, hres]

/-- The block when the bytes of a page are out and its status has arrived, before the transaction ends. -/
def pageAnswered (rb : RespBuf) (status : Byte) (idx : Half) (rest : List Event) (s : State) : State :=
  { s with
    sent := s.sent ++ s.fb.toList ++ payloadOf s, idx := idx, tstate := .rx, pending := rest, rb := rb, rcnt := 11,
    timer := 1000, rspStatus := status }

theorem holding_allSent (rb : RespBuf) (status : Byte) (idx : Half) (ts : TState) (rest : List Event) (s : State) :
    { holding rb 11 1000 (setPending rest (enterRx 1000 (allSent idx ts s))) with rspStatus := status } =
      pageAnswered rb status idx rest s := by
  simp only [holding, setPending, enterRx, allSent, pageAnswered]
  rfl

@[simp] theorem pageAnswered_op (rb : RespBuf) (b : Byte) (n : Half) (es : List Event) (s : State) :
    (pageAnswered rb b n es s).op = s.op := (rfl)
@[simp] theorem pageAnswered_size (rb : RespBuf) (b : Byte) (n : Half) (es : List Event) (s : State) :
    (pageAnswered rb b n es s).size = s.size := (rfl)
@[simp] theorem pageAnswered_offset (rb : RespBuf) (b : Byte) (n : Half) (es : List Event) (s : State) :
    (pageAnswered rb b n es s).offset = s.offset := (rfl)
@[simp] theorem pageAnswered_sstate (rb : RespBuf) (b : Byte) (n : Half) (es : List Event) (s : State) :
    (pageAnswered rb b n es s).sstate = s.sstate := (rfl)
@[simp] theorem pageAnswered_img (rb : RespBuf) (b : Byte) (n : Half) (es : List Event) (s : State) :
    (pageAnswered rb b n es s).img = s.img := (rfl)
@[simp] theorem pageAnswered_pending (rb : RespBuf) (b : Byte) (n : Half) (es : List Event) (s : State) :
    (pageAnswered rb b n es s).pending = es := (rfl)
@[simp] theorem pageAnswered_rspStatus (rb : RespBuf) (b : Byte) (n : Half) (es : List Event) (s : State) :
    (pageAnswered rb b n es s).rspStatus = b := (rfl)
@[simp] theorem pageAnswered_sent (rb : RespBuf) (b : Byte) (n : Half) (es : List Event) (s : State) :
    (pageAnswered rb b n es s).sent = s.sent ++ s.fb.toList ++ payloadOf s := (rfl)

/-- A whole page is 138 accepted and eleven received bytes, and then the end of its transaction. -/
theorem runSteps_page {s : State} {header : List Byte} (hs : s.tstate = .txf) (hidx : s.idx = 0) (hc : s.rcnt = 0)
    (hop : s.op = 0x02) (hsize : s.size = 0x0080) (hr : s.addr.toNat + s.size.toNat ≤ 0x100000)
    (hlen : header.length = 10) (status : Byte) (rest : List Event) :
    ∃ rb n, runSteps 149 (setPending
        (List.replicate 138 .txAccept ++ (header ++ [status]).map .rxByte ++ rest) s) =
      complete (if status = 0x01 then .eNone else .eProtocol) (pageAnswered rb status n rest s) := by
  obtain ⟨n, ts, hsend⟩ := runSteps_frame_payload hs hidx (fun _ => hr) ((header ++ [status]).map .rxByte ++ rest)
  have hpay : (payloadOf s).length = 128 := by simp [payloadOf_flashWrite hop, imageBytes, hsize]
  obtain ⟨rb, hrecv⟩ := runSteps_status (s := enterRx 1000 (allSent n ts s)) (k := 1000) rfl hc (by simp [hop]; rfl)
    (by simp [hop]; rfl) hlen status rest
  refine ⟨rb, n, ?_⟩
  rw [hpay, txDone_of_wait (n := 10) (k := 1000) (by simp [hop]; rfl) (by simp [hop]; rfl)] at hsend
  rw [show 149 = 138 + 11 from rfl, runSteps_add, List.append_assoc, hsend, andThen_next, ← holding_allSent rb status n ts]
  exact hrecv

/-- The good end of a page's transaction (R207). -/
theorem complete_good_write {s : State} (hs : s.sstate = .write) :
    complete .eNone s = .next (afterPage (endTxn .eNone s)) := by
  rw [complete_of_active (by rw [hs]; rfl), seqAdvance, endTxn_sstate, hs]
  rfl

/-- Settles O45: the page's bytes lead to the end of its transaction, which goes the way of the status byte. -/
theorem onePageOfASession : Obligations.OnePageOfASession := by
  intro s header status rest h hs htxf hidx _ hfb hlen
  have hphase := h.phaseInv
  obtain ⟨-, ⟨hsending, -⟩, -⟩ := h
  obtain ⟨-, -, hc, hr⟩ := hsending htxf
  simp only [PhaseInv, hs] at hphase
  obtain ⟨-, hop, hsize, haddr, hpage, -, -⟩ := hphase
  obtain ⟨rb, n, hrun⟩ := runSteps_page htxf hidx hc hop hsize ((inImage_iff _ _).mp (hr hop)) hlen status rest
  generalize hv : pageAnswered rb status n rest s = v at hrun
  obtain ⟨hvs, hvop, hvsize, hvoff, hvpend, hvstat, hvimg⟩ : v.sstate = .write ∧ v.op = 0x02 ∧ v.size = 0x0080 ∧
      v.offset = s.offset ∧ v.pending = rest ∧ v.rspStatus = status ∧ v.img = s.img := by simp [← hv, hs, hop, hsize]
  have hvsent : v.sent = s.sent ++ (frameOf 0x02 0x0080 s.offset true).toList ++ imageBytes s.img s.offset.toNat 0x80 := by
    simp only [← hv, pageAnswered_sent, payloadOf_flashWrite hop, hfb, haddr, hsize]
    rfl
  have hvpage : pageAddr (endTxn .eNone v).offset := by rwa [endTxn_offset, hvoff]
  by_cases hok : status = 0x01
  · rw [if_pos hok, complete_good_write hvs] at hrun
    by_cases hmore : s.offset.toNat + 0x80 < 0x20000
    · rw [afterPage_of_more (s := endTxn .eNone v) hvop hvsize hvpage (by rw [endTxn_offset, hvoff]; exact hmore)] at hrun
      have hnot : s.offset.toNat + 0x80 ≠ 0x20000 := hmore.ne
      refine ⟨_, hrun, ?_⟩
      simp only [launch_sent, loadAddr_sent, nextPage_sent, endTxn_sent]
      refine ⟨hvsent, hvpend, hvstat, hvimg, fun _ _ => ⟨hvs, ?_, rfl, rfl⟩, fun _ h => absurd h hnot, fun h => absurd hok h⟩
      rw [← hvoff]
      rfl
    · have hlast := pageAddr_last hpage hmore
      have hvlast : (endTxn .eNone v).offset.toNat + 0x80 = 0x20000 := by rwa [endTxn_offset, hvoff]
      have hprog := nextPage_progress_of_last hvpage hvlast
      rw [afterPage_of_last hvpage hvlast] at hrun
      exact ⟨_, hrun, by simpa using hvsent, by simpa using hvpend, by simpa using hvstat, by simpa using hvimg,
        fun _ h => absurd h hmore, fun _ _ => ⟨rfl, rfl, hprog, rfl, rfl⟩, (absurd hok ·)⟩
  · rw [if_neg hok, complete_failure_of_active (res := .eProtocol) nofun (by rw [hvs]; rfl), hvs] at hrun
    exact ⟨_, hrun, hvsent, hvpend, hvstat, hvimg, (absurd · hok), (absurd · hok), fun _ => ⟨rfl, rfl, rfl, hvoff⟩⟩

end Sys2Proof.Machine
end

section
/-! SUPPORT. The session phase by phase: START, the end of each phase's transaction, and reset
(spec/43_session_sequencer.md R200 to R211, 70_reset_and_hazards.md R260 to R262). -/

namespace Sys2Proof.Machine

/-! ## The good end of each phase's transaction -/

theorem complete_good_query {s : State} (hs : s.sstate = .query) :
    complete .eNone s = .next (eraseIssue (endTxn .eNone s)) := by
  rw [complete_of_active (by rw [hs]; rfl), seqAdvance, endTxn_sstate, hs]
  rfl

theorem complete_good_reset {s : State} (hs : s.sstate = .reset) :
    complete .eNone s = .next (enterPhase .done (endTxn .eNone s)) := by
  rw [complete_of_active (by rw [hs]; rfl), seqAdvance, endTxn_sstate, hs]
  rfl

/-- The local checksum is compared with the device's, and the session fails or goes on (R209). -/
theorem complete_good_verify {s : State} (hs : s.sstate = .verify) (hin : inImage s.offset.toNat s.size.toNat = true) :
    complete .eNone s =
      if csValue (localChecksum (endTxn .eNone s)) ≠ (localChecksum (endTxn .eNone s)).rspCsum then
        .next (fail .verify .eCsum (localChecksum (endTxn .eNone s)))
      else .next (nextWindow (localChecksum (endTxn .eNone s))) := by
  have hnot : ¬ inImage (endTxn .eNone s).offset.toNat (endTxn .eNone s).size.toNat = false := by simp [hin]
  rw [complete_of_active (by rw [hs]; rfl), seqAdvance, endTxn_sstate, hs]
  exact (if_neg (not_not.mpr rfl)).trans (if_neg hnot)

/-! ## Issuing the next command -/

/-- A command without a payload that the engine runs always starts (R145). -/
theorem issue_launch {op : Byte} (hop : supported op = true) (hne : op ≠ 0x02) (size : Half) (addr : Addr) (s : State) :
    issue op size addr s = launch (loadOperands op size addr s) :=
  startTxn_launch (s := loadOperands op size addr s) hop fun h => absurd h hne

/-- START issues GetVersion in phase query (R200). -/
theorem startSession_eq_launch (s : State) : startSession s =
    launch (loadOperands 0x00 0 0 (enterPhase .query (setProgress 0 (setOffset 0 (clearFailure s))))) :=
  issue_launch rfl (by decide) _ _ _

/-- No row count of 16 bits: the session fails and nothing is issued (R204). -/
theorem eraseIssue_of_param {s : State} (h : s.infoRow = 0 ∨ 0xFFFF < eraseRows s.infoRow) :
    eraseIssue s = fail .erase .eParam s := by
  unfold eraseIssue
  split_ifs with hrow hrows
  · rfl
  · rfl
  · exact absurd h (not_or.mpr ⟨hrow, hrows⟩)

theorem eraseIssue_of_rows {s : State} (hrow : s.infoRow ≠ 0) (hrows : eraseRows s.infoRow ≤ 0xFFFF) :
    eraseIssue s =
      launch (loadOperands 0x03 (BitVec.ofNat 16 (eraseRows s.infoRow)) 0x000800 (enterPhase .erase s)) := by
  rw [eraseIssue, if_neg hrow, if_neg (Nat.not_lt.mpr hrows)]
  exact issue_launch rfl (by decide) _ _ _

theorem firstPage_eq (s : State) : firstPage s = { s with
    img := cellWrite s.img 0x1FFFF 0x55, offset := 0x000800, progress := 0, sstate := .write } := by
  have hlast : Config.winEnd - 1 = 0x1FFFF := rfl
  simp only [firstPage, memWrite, hlast]
  rfl

/-- Below the end of the window the next page's address does not wrap, aligned or not. -/
theorem nextPage_toNat {s : State} (h : s.offset.toNat < 0x20000) :
    (nextPage s).offset.toNat = s.offset.toNat + 0x80 := by
  rw [nextPage_offset, Config.page]
  bv_omega

theorem progressAt_nextPage {s : State} (h : s.offset.toNat < 0x20000) :
    progressAt (s.offset + 0x80) = BitVec.ofNat 7 (100 * (s.offset.toNat + 0x80 - 0x800) / 0x1F800) := by
  have hnext : (s.offset + 0x80).toNat = s.offset.toNat + 0x80 := nextPage_toNat h
  rw [progressAt, hnext]
  rfl

/-- Inside the window the next page is issued (R207). -/
theorem afterPage_next {s : State} (hop : s.op = 0x02) (hsize : s.size = 0x0080) (h : s.offset.toNat + 0x80 < 0x20000) :
    afterPage s = launch (loadAddr (nextPage s).offset (nextPage s)) := by
  have hnext := nextPage_toNat (show s.offset.toNat < 0x20000 by omega)
  have hsup : supported (loadAddr (nextPage s).offset (nextPage s)).op = true := by simp [hop, supported]
  have hin : inImage (nextPage s).offset.toNat s.size.toNat = true := by
    rw [inImage_iff, hnext, hsize]
    bv_omega
  rw [afterPage, if_pos (hnext ▸ h), startTxn_launch hsup fun _ => hin]

/-- At its end the first verify window is issued (R208). -/
theorem afterPage_window {s : State} (h : s.offset.toNat < 0x20000) (hlast : 0x20000 ≤ s.offset.toNat + 0x80) :
    afterPage s =
      launch (loadOperands 0x08 0xFFF0 0x000800 (enterPhase .verify (setOffset 0x000800 (nextPage s)))) := by
  have hend : ¬ (nextPage s).offset.toNat < Config.winEnd := by
    rw [nextPage_toNat h, Config.winEnd]
    omega
  rw [afterPage, if_neg hend]
  exact issue_launch rfl (by decide) _ _ _

/-- The sum of an offset and a window's size, computed without wrapping. -/
theorem windowEnd_toNat {s : State} (h : s.offset.toNat + s.size.toNat ≤ 0x1FFFE) :
    (s.offset + s.size.setWidth 24).toNat = s.offset.toNat + s.size.toNat := by
  bv_omega

/-- The size of the next window (R208). -/
theorem verifyLen_windowEnd {s : State} (h : s.offset.toNat + s.size.toNat ≤ 0x1FFFE) :
    verifyLen (s.offset + s.size.setWidth 24) =
      BitVec.ofNat 16 (min 0xFFF0 (0x1FFFE - (s.offset.toNat + s.size.toNat))) := by
  rw [verifyLen, windowEnd_toNat h]
  rfl

/-- Before the end of the verified range the next window is issued (R208, R209). -/
theorem nextWindow_of_more {s : State} (h : s.offset.toNat + s.size.toNat < 0x1FFFE) :
    nextWindow s = launch (loadOperands 0x08 (verifyLen (s.offset + s.size.setWidth 24))
      (s.offset + s.size.setWidth 24) (setOffset (s.offset + s.size.setWidth 24) s)) := by
  have hwin : (s.offset + s.size.setWidth 24).toNat < Config.winEnd - Config.vtail := by
    rw [windowEnd_toNat h.le]
    exact h
  rw [nextWindow, if_pos hwin]
  exact issue_launch rfl (by decide) _ _ _

/-- At its end the device's reset is issued (R210). -/
theorem nextWindow_of_last {s : State} (h : s.offset.toNat + s.size.toNat = 0x1FFFE) :
    nextWindow s = launch (loadOperands 0x09 0 0 (enterPhase .reset (setOffset 0x01FFFE s))) := by
  have hend : s.offset + s.size.setWidth 24 = 0x01FFFE :=
    BitVec.eq_of_toNat_eq ((windowEnd_toNat h.le).trans h)
  rw [nextWindow, hend, if_neg (by decide)]
  exact issue_launch rfl (by decide) _ _ _

/-! ## The local checksum -/

/-- The engine's four registers are all that the local checksum writes. -/
theorem localChecksum_frame (s : State) :
    localChecksum s = { s with
      csA := (localChecksum s).csA, csB := (localChecksum s).csB, csH := (localChecksum s).csH,
      csPh := (localChecksum s).csPh } := by
  unfold localChecksum
  exact csPushAll_frame _ (csClear s)

theorem csValue_localChecksum (s : State) :
    csValue (localChecksum s) = checksum (imageBytes s.img s.offset.toNat s.size.toNat) := by
  rw [localChecksum, csValue_csPushAll_csClear, cellRange_eq_imageBytes]

theorem localChecksum_csPh (s : State) : (localChecksum s).csPh = s.size.getLsbD 0 := by
  rw [localChecksum, csPushAll_csPh, cellRange_length, csClear_csPh, Bool.false_xor, BitVec.getLsbD, Nat.testBit_zero]

@[simp] theorem localChecksum_rspCsum (s : State) : (localChecksum s).rspCsum = s.rspCsum :=
  localChecksum_keeps (·.rspCsum) (fun _ _ _ _ _ => rfl) s

@[simp] theorem localChecksum_offset (s : State) : (localChecksum s).offset = s.offset :=
  localChecksum_keeps (·.offset) (fun _ _ _ _ _ => rfl) s

@[simp] theorem localChecksum_size (s : State) : (localChecksum s).size = s.size :=
  localChecksum_keeps (·.size) (fun _ _ _ _ _ => rfl) s

@[simp] theorem localChecksum_progress (s : State) : (localChecksum s).progress = s.progress :=
  localChecksum_keeps (·.progress) (fun _ _ _ _ _ => rfl) s

/-! ## The obligations -/

/-- A bad end in a phase of a running session (R202, as O36 states it). -/
theorem complete_bad_of_phase {ss : SState} {res : Cause} {s : State} (hs : s.sstate = ss)
    (ha : sessionActive ss = true) (hres : res ≠ .eNone) :
    complete res s = .next { s with
      tres := res, tstate := .idle, failPhase := phaseOf ss, failCause := res, sstate := .failed } := by
  subst hs
  exact (failedTransactionEndsSession s res ha hres).1

/-- Settles O37: INFO_ROW decides between E_PARAM and the erase. -/
theorem queryEnds : Obligations.QueryEnds := by
  refine fun s hs => ⟨fun res => complete_bad_of_phase hs rfl, fun hrow => ?_, fun hrow hrows => ?_⟩
  · rw [complete_good_query hs, eraseIssue_of_param (s := endTxn .eNone s) hrow]
    rfl
  · rw [complete_good_query hs, eraseIssue_of_rows (s := endTxn .eNone s) hrow hrows]
    rfl

/-- Settles O38: the first page is issued from the state in which the sentinel stands. -/
theorem eraseEnds : Obligations.EraseEnds := by
  refine fun s hs => ⟨?_, fun res => complete_bad_of_phase hs rfl⟩
  rw [complete_good_erase hs, issuePage_firstPage, firstPage_eq]
  rfl

/-- Settles O39: OFFSET after the page decides between the next page and the first verify window. -/
theorem pageEnds : Obligations.PageEnds := by
  intro s hs hop hsize _ hhi
  rw [← progressAt_nextPage hhi]
  refine ⟨fun hmore => ?_, fun hlast => ?_, fun res => complete_bad_of_phase hs rfl⟩
  · rw [complete_good_write hs, afterPage_next (s := endTxn .eNone s) hop hsize hmore]
    simp only [launch, loadAddr, nextPage, endTxn, hop, hsize]
    rfl
  · rw [complete_good_write hs, afterPage_window (s := endTxn .eNone s) hhi hlast]
    simp only [launch, loadOperands, enterPhase, setOffset, nextPage, endTxn]
    rfl

/-- Settles O40: the engine holds the window's checksum, and its comparison and the window's end decide what follows. -/
theorem windowEnds : Obligations.WindowEnds := by
  intro s hs hle
  refine ⟨fun res => complete_bad_of_phase hs rfl, ?_⟩
  have hsum := csValue_localChecksum (endTxn .eNone s)
  have hph := localChecksum_csPh (endTxn .eNone s)
  rw [complete_good_verify hs ((inImage_iff _ _).mpr (by omega)), localChecksum_rspCsum]
  obtain ⟨a, b, h, p, hframe⟩ : ∃ a b h p, localChecksum (endTxn .eNone s) =
      { endTxn .eNone s with csA := a, csB := b, csH := h, csPh := p } := ⟨_, _, _, _, localChecksum_frame _⟩
  rw [hframe] at hsum hph ⊢
  by_cases hsame : pair a b = s.rspCsum
  · have hgoes : ¬ pair a b ≠ s.rspCsum := not_not.mpr hsame
    rcases Nat.lt_or_eq_of_le hle with hmore | hlast
    · refine ⟨_, (if_neg hgoes).trans (congrArg Host.Outcome.next (nextWindow_of_more hmore)), hsum, hph, absurd hsame,
        fun _ _ => ?_, fun _ h => absurd h hmore.ne⟩
      rw [← verifyLen_windowEnd hle]
      simp only [launch, loadOperands, setOffset, endTxn]
      rfl
    · refine ⟨_, (if_neg hgoes).trans (congrArg Host.Outcome.next (nextWindow_of_last hlast)), hsum, hph, absurd hsame,
        fun _ h => absurd hlast h.ne, fun _ _ => ?_⟩
      simp only [launch, loadOperands, enterPhase, setOffset, endTxn]
      rfl
  · exact ⟨_, if_pos hsame, hsum, hph, fun _ => rfl, (absurd · hsame), (absurd · hsame)⟩

/-- Settles O41: a good end finishes the session. -/
theorem resetPhaseEnds : Obligations.ResetPhaseEnds :=
  fun _ hs => ⟨complete_good_reset hs, fun _ => complete_bad_of_phase hs rfl⟩

/-- The ten bytes of a session's GetVersion (R200). -/
theorem frameOf_getVersion : frameOf 0x00 0 0 false = #v[0x55, 0, 0, 0, 0, 0, 0, 0, 0, 0] := by decide

/-- Settles O35: the guard of START, and the query it issues. -/
theorem startResult : Obligations.StartResult := by
  refine ⟨rfl, fun s => ⟨fun h => congrArg Host.Outcome.next (if_pos h), fun hb hs => ?_⟩⟩
  rw [exec, execStart, if_neg (by simp [hb, hs]), startSession_eq_launch, ← frameOf_getVersion]
  simp only [launch, loadOperands, enterPhase, setProgress, setOffset, clearFailure]
  rfl

/-- STATUS reads only registers that a reset writes (R261). -/
theorem statusWord_resetBlock (s : State) : statusWord (resetBlock s) = 0x00002000 :=
  (by decide : statusWord State.reset = 0x00002000)

/-- Settles O1: both forms are `resetBlock`, whose registers are those of the reset state. -/
theorem resetZeroesEveryRegister : Obligations.ResetZeroesEveryRegister := by
  intro s
  have hfb (k : Fin 10) : (resetBlock s).fb[k] = 0 := Vector.getElem_replicate k.isLt
  have hrb (k : Fin 26) : (resetBlock s).rb[k] = 0 := Vector.getElem_replicate k.isLt
  have hstatus : readReg 0x01 (resetBlock s) = some 0x00002000 := congrArg some (statusWord_resetBlock s)
  exact ⟨rfl, fun v hv => ⟨rfl, decodeCtrl_srst hv⟩, rfl, resetBlock s, rfl, rfl, rfl, rfl, rfl, rfl, rfl, rfl, rfl, hfb, hrb,
    rfl, rfl, rfl, rfl, rfl, rfl, rfl, rfl, rfl, rfl, rfl, rfl, rfl, rfl, rfl, rfl, rfl, rfl, rfl, rfl, rfl, rfl, rfl, rfl,
    rfl, rfl, hstatus, rfl, rfl, rfl, rfl, rfl, rfl, rfl, rfl⟩

end Sys2Proof.Machine
end

section
/-! SUPPORT. What a step does to the session: it stays, it begins, or the transaction of its phase ends
(spec/43_session_sequencer.md R212, R213, 60_exceptions.md R236, R237). -/

namespace Sys2Proof.Machine

/-! ## The ways of a step -/

/-- What the sequencer keeps between transactions. -/
def sessionRecord (s : State) : SState × Phase × Cause × Addr × BitVec 7 :=
  (s.sstate, s.failPhase, s.failCause, s.offset, s.progress)

theorem sstate_of_sessionRecord {s t : State} (h : sessionRecord t = sessionRecord s) : t.sstate = s.sstate :=
  congrArg Prod.fst h

/-- A step that is no reset, as the session sees it. -/
inductive SessionStep (s t : State) : Prop
  /-- Nothing of the session changes. -/
  | stays (hrec : sessionRecord t = sessionRecord s)
  /-- START is accepted (R200). -/
  | starts (hs : s.sstate = .idle) (ht : t.sstate = .query)
  /-- The transaction of a running session ends in a state `u` that is `s` for all the session knows (R202). -/
  | ends (res : Cause) (u : State) (hc : complete res u = .next t) (ha : sessionActive u.sstate = true)
      (hrec : sessionRecord u = sessionRecord s) (himg : u.img = s.img) (hphase : PhaseInv s → PhaseInv u)

/-- The step may be told from a state that differs in what the session does not know. -/
theorem SessionStep.of_same {s s' t : State} (h : SessionStep s' t) (hrec : sessionRecord s' = sessionRecord s)
    (himg : s'.img = s.img) (hphase : PhaseInv s → PhaseInv s') : SessionStep s t := by
  cases h with
  | stays h => exact .stays (h.trans hrec)
  | starts hs ht => exact .starts ((sstate_of_sessionRecord hrec).symm.trans hs) ht
  | ends res u hc ha h hi hp => exact .ends res u hc ha (h.trans hrec) (hi.trans himg) (hp ∘ hphase)

/-! ## The events of a transaction -/

theorem complete_sessionStep {res : Cause} {s t : State} (hc : complete res s = .next t) : SessionStep s t := by
  cases ha : sessionActive s.sstate with
  | true => exact .ends res s hc ha rfl rfl id
  | false =>
    rw [complete_of_idle ha] at hc
    obtain rfl := Host.Outcome.next.inj hc
    exact .stays rfl

theorem abortTxn_sessionStep {res : Cause} (hres : res ≠ .eNone) (s : State) : SessionStep s (abortTxn res s) :=
  complete_sessionStep (complete_of_failure hres s)

theorem txDone_sessionStep {s t : State} (h : txDone s = .next t) : SessionStep s t := by
  rcases txDone_cases h with ⟨-, hc⟩ | ⟨_, _, -, -, rfl⟩
  · exact complete_sessionStep hc
  · exact .stays rfl

theorem txAccept_sessionStep {s t : State} (h : txAccept s = .next t) : SessionStep s t := by
  rcases txAccept_cases h with ⟨b, -, -, hf⟩ | ⟨b, -, -, hp⟩
  · rcases afterFrameByte_cases hf with ⟨-, rfl⟩ | ⟨-, -, -, rfl⟩ | ⟨-, -, hd⟩
    · exact .stays rfl
    · exact .stays rfl
    · exact (txDone_sessionStep hd).of_same rfl rfl id
  · rcases afterPayloadByte_cases hp with ⟨-, rfl⟩ | ⟨-, hd⟩
    · exact .stays rfl
    · exact (txDone_sessionStep hd).of_same rfl rfl id

theorem rxByte_sessionStep {b : Byte} {s t : State} (h : rxByte b s = .next t) : SessionStep s t := by
  obtain ⟨k, _, fmt, -, -, -, -, hf, ⟨-, rfl⟩ | ⟨-, hc⟩⟩ := rxByte_cases h
  · exact .stays rfl
  · exact (complete_sessionStep hc).of_same (by cases fmt <;> rfl) (by cases fmt <;> rfl)
      fun hp => phaseInv_runDecoder (s := storeByte b k s) hp hf

theorem tick_sessionStep {s t : State} (h : tick s = .next t) : SessionStep s t := by
  rcases tick_cases h with ⟨-, rfl⟩ | ⟨-, -, rfl⟩ | ⟨-, -, rfl⟩
  · exact .stays rfl
  · exact .stays rfl
  · exact (abortTxn_sessionStep (res := .eTimeout) nofun (countDown s)).of_same rfl rfl id

/-! ## The host -/

theorem storeOperand_sessionRecord (i : Index) (v : Word) (s : State) :
    sessionRecord (storeOperand i v s) = sessionRecord s := by
  unfold storeOperand
  split_ifs <;> rfl

theorem hostWriteOther_sessionRecord (i : Index) (v : Word) (s : State) :
    sessionRecord (hostWriteOther i v s) = sessionRecord s := by
  rcases hostWriteOther_cases i v s with h | h | h <;> rw [h]
  · rfl
  · exact storeOperand_sessionRecord i v s

theorem hostRead_sessionRecord (i : Index) (s : State) : sessionRecord (hostRead i s) = sessionRecord s := by
  unfold hostRead
  split <;> rfl

/-- Outside a session a transaction starts or aborts without it. -/
theorem startTxn_sessionRecord {s : State} (ha : sessionActive s.sstate = false) :
    sessionRecord (startTxn s) = sessionRecord s := by
  rcases startTxn_cases s with ⟨-, h⟩ | ⟨-, -, h⟩ | ⟨-, -, h⟩ <;> rw [h]
  · rw [abortTxn_of_idle ha]
    rfl
  · rw [abortTxn_of_idle ha]
    rfl
  · rfl

theorem csPushAll_sessionRecord (bs : List Byte) (s : State) : sessionRecord (csPushAll bs s) = sessionRecord s :=
  csPushAll_keeps sessionRecord (fun _ _ _ _ _ => rfl) bs s

theorem startSession_sstate (s : State) : (startSession s).sstate = .query := by
  rw [startSession_eq_launch]
  rfl

/-- A refusal keeps the record, so a guarded rule does when the rule itself does in a block that is not busy. -/
theorem sessionRecord_of_guard {s t : State} (h : busy s = false → sessionRecord t = sessionRecord s) :
    sessionRecord (if busy s then refuse s else t) = sessionRecord s := by
  split_ifs with hb
  · rfl
  · exact h (Bool.eq_false_of_not_eq_true hb)

theorem guarded_sessionStep {i : Instr} (hi : i ∈ guardedStrobes) {s t : State} (h : exec i s = .next t) :
    SessionStep s t := by
  rcases guardedStrobes_cases hi with rfl | rfl | rfl | rfl | rfl | rfl <;> obtain rfl := Host.Outcome.next.inj h
  · split_ifs with hno
    · exact .stays rfl
    · exact .starts (by tauto) (startSession_sstate s)
  · exact .stays (sessionRecord_of_guard fun hb => startTxn_sessionRecord (sessionActive_of_not_busy hb))
  · exact .stays (sessionRecord_of_guard fun _ => rfl)
  · exact .stays (sessionRecord_of_guard fun _ => rfl)
  · exact .stays (sessionRecord_of_guard fun _ => rfl)
  · refine .stays (sessionRecord_of_guard fun _ => ?_)
    split_ifs
    · exact csPushAll_sessionRecord _ s
    · rfl

/-! ## The step -/

theorem request_sessionStep {e : Event} {i : Instr} (hf : fetch e = .ok i) {s t : State} (h : exec i s = .next t) :
    SessionStep s t ∨ t = resetBlock s := by
  rcases fetch_ok_cases hf with rfl | hi | ⟨b, rfl⟩
  · exact .inr (Host.Outcome.next.inj h).symm
  · exact .inl (guarded_sessionStep hi h)
  · obtain rfl := Host.Outcome.next.inj h
    exact .inl (.stays (sessionRecord_of_guard fun _ => csPushAll_sessionRecord [b] s))

theorem perform_sessionStep {e : Event} {s t : State} (h : perform e s = .next t) :
    SessionStep s t ∨ t = resetBlock s := by
  cases e with
  | reset => exact .inr (Host.Outcome.next.inj h).symm
  | hostWrite i v => exact .inl (.stays (Host.Outcome.next.inj h ▸ hostWriteOther_sessionRecord i v s))
  | hostRead i => exact .inl (.stays (Host.Outcome.next.inj h ▸ hostRead_sessionRecord i s))
  | txAccept => exact .inl (txAccept_sessionStep h)
  | txFail =>
    obtain ⟨-, rfl⟩ := txFail_cases h
    exact .inl (abortTxn_sessionStep (res := .eIoTx) nofun s)
  | rxByte b => exact .inl (rxByte_sessionStep h)
  | rxError =>
    obtain ⟨-, rfl⟩ := rxError_cases h
    exact .inl (abortTxn_sessionStep (res := .eIoRx) nofun s)
  | tick => exact .inl (tick_sessionStep h)

/-- Every step is one of the session's three ways or a reset. -/
theorem step_sessionStep {s t : State} (h : step s = .next t) :
    SessionStep s t ∨ t = resetBlock (setPending t.pending s) := by
  have hback {rest : List Event} (hc : SessionStep (setPending rest s) t ∨ t = resetBlock (setPending rest s)) :
      SessionStep s t ∨ t = resetBlock (setPending t.pending s) :=
    hc.imp (fun hstep => hstep.of_same rfl rfl id) fun ht => by rw [ht]; rfl
  rcases step_cases s with ⟨-, hstep⟩ | ⟨_, rest, i, -, hf, hstep⟩ | ⟨_, rest, _, -, -, hstep⟩ <;> rw [hstep] at h
  · cases h
    exact .inl (.stays rfl)
  · exact hback (request_sessionStep hf h)
  · exact hback (perform_sessionStep h)

/-! ## Where a session goes -/

theorem sessionMove_self (ss : SState) : sessionMove ss ss = true := by cases ss <;> rfl

theorem sessionMove_failed {ss : SState} (ha : sessionActive ss = true) : sessionMove ss .failed = true := by
  cases ss with
  | idle | done | failed => cases ha
  | query | erase | write | verify | reset => rfl

/-- Starting a transaction leaves SSTATE or fails the session. -/
theorem startTxn_sstate (s : State) : (startTxn s).sstate = s.sstate ∨ (startTxn s).sstate = .failed := by
  have habort (res : Cause) : (abortTxn res s).sstate = s.sstate ∨ (abortTxn res s).sstate = .failed := by
    unfold abortTxn
    split_ifs
    · exact .inr rfl
    · exact .inl rfl
  rcases startTxn_cases s with ⟨-, h⟩ | ⟨-, -, h⟩ | ⟨-, -, h⟩ <;> rw [h]
  · exact habort _
  · exact habort _
  · exact .inl rfl

/-- A running session goes where the next command is issued, or fails there. -/
theorem sessionMove_startTxn {ss : SState} {s : State} (ha : sessionActive ss = true)
    (hm : sessionMove ss s.sstate = true) : sessionMove ss (startTxn s).sstate = true := by
  rcases startTxn_sstate s with h | h <;> rw [h]
  · exact hm
  · exact sessionMove_failed ha

/-- The end of a transaction moves a running session as R213 says. -/
theorem complete_sessionMove {res : Cause} {s t : State} (ha : sessionActive s.sstate = true)
    (hc : complete res s = .next t) : sessionMove s.sstate t.sstate = true := by
  by_cases hr : res = .eNone
  · subst hr
    rcases complete_good_cases hc with ⟨hno, -⟩ | ⟨hs, rfl⟩ | ⟨hs, rfl⟩ | ⟨hs, rfl⟩ | ⟨hs, -, -, rfl⟩ | ⟨hs, -, -, rfl⟩ |
      ⟨hs, rfl⟩
    · rw [ha] at hno
      cases hno
    · rw [hs]
      unfold eraseIssue
      split_ifs
      · rfl
      · rfl
      · exact sessionMove_startTxn rfl rfl
    · rw [hs]
      exact sessionMove_startTxn rfl rfl
    · rw [hs]
      unfold afterPage
      split_ifs
      · exact sessionMove_startTxn rfl (by simp [hs, sessionMove])
      · exact sessionMove_startTxn rfl rfl
    · rw [hs]
      rfl
    · rw [hs]
      unfold nextWindow
      split_ifs
      · exact sessionMove_startTxn rfl (by simp [hs, sessionMove])
      · exact sessionMove_startTxn rfl rfl
    · rw [hs]
      rfl
  · rw [complete_failure_of_active hr ha] at hc
    rw [← Host.Outcome.next.inj hc]
    exact sessionMove_failed ha

/-- Settles O42: a session stays, begins, or moves with the end of its transaction. -/
theorem sessionOnlyMovesForward : Obligations.SessionOnlyMovesForward := by
  refine fun s t h => (step_sessionStep h).imp_left fun hstep => ?_
  cases hstep with
  | stays hrec => rw [sstate_of_sessionRecord hrec, sessionMove_self]
  | starts hs ht =>
    rw [hs, ht]
    rfl
  | ends res u hc ha hrec => exact sstate_of_sessionRecord hrec ▸ complete_sessionMove ha hc

/-- Settles O43: in S_DONE and S_FAILED no session begins and none has a transaction to end. -/
theorem terminalStatesStay : Obligations.TerminalStatesStay := by
  refine fun s t hs h => (step_sessionStep h).imp_left fun hstep => ?_
  cases hstep with
  | stays hrec => simpa [sessionRecord] using hrec
  | starts hidle => simp [hidle] at hs
  | ends res u _ ha hrec =>
    rw [sstate_of_sessionRecord hrec] at ha
    rcases hs with hs | hs <;> simp [hs, sessionActive] at ha

/-! ## The entry into S_FAILED -/

/-- A page of the invariant lies in the image, so what follows it does not fail. -/
theorem afterPage_ne_failed {s : State} (hs : s.sstate = .write) (h : PhaseInv s) : (afterPage s).sstate ≠ .failed := by
  simp only [PhaseInv, hs] at h
  obtain ⟨-, hop, hsize, -, hpage, -⟩ := h
  by_cases hmore : s.offset.toNat + 0x80 < 0x20000
  · rw [afterPage_of_more hop hsize hpage hmore]
    simp [hs]
  · rw [afterPage_of_last hpage (pageAddr_last hpage hmore)]
    nofun

theorem nextWindow_ne_failed {s : State} (hs : s.sstate = .verify) : (nextWindow s).sstate ≠ .failed := by
  unfold nextWindow issueVerify
  split_ifs <;> rw [issue_launch rfl (by decide)]
  · simp [hs]
  · nofun

/-- The end of a transaction that fails the session leaves its place and IMG, and records the phase (R204, R236). -/
theorem complete_failed {res : Cause} {s t : State} (h : PhaseInv s) (ha : sessionActive s.sstate = true)
    (hc : complete res s = .next t) (ht : t.sstate = .failed) :
    t.offset = s.offset ∧ t.progress = s.progress ∧ t.img = s.img ∧ t.tstate = .idle ∧
    (t.failPhase = phaseOf s.sstate ∨ (s.sstate = .query ∧ t.failPhase = .erase ∧ t.failCause = .eParam)) := by
  by_cases hr : res = .eNone
  · subst hr
    rcases complete_good_cases hc with ⟨hno, -⟩ | ⟨hs, rfl⟩ | ⟨hs, rfl⟩ | ⟨hs, rfl⟩ | ⟨hs, -, -, rfl⟩ | ⟨hs, -, -, rfl⟩ |
      ⟨hs, rfl⟩
    · rw [ha] at hno
      cases hno
    · by_cases hparam : s.infoRow = 0 ∨ 0xFFFF < eraseRows s.infoRow
      · rw [eraseIssue_of_param (s := endTxn .eNone s) hparam]
        exact ⟨rfl, rfl, rfl, rfl, .inr ⟨hs, rfl, rfl⟩⟩
      · obtain ⟨hrow, hrows⟩ := not_or.mp hparam
        rw [eraseIssue_of_rows (s := endTxn .eNone s) hrow (Nat.not_lt.mp hrows)] at ht
        cases ht
    · rw [issuePage_firstPage] at ht
      cases ht
    · exact absurd ht (afterPage_ne_failed hs h)
    · refine ⟨by simp, by simp, ?_, by simp, .inl ?_⟩
      · rw [fail_img, localChecksum_img, endTxn_img]
      · rw [hs]
        rfl
    · exact absurd ht (nextWindow_ne_failed (by simpa using hs))
    · cases ht
  · rw [complete_failure_of_active hr ha] at hc
    rw [← Host.Outcome.next.inj hc]
    exact ⟨rfl, rfl, rfl, rfl, .inl rfl⟩

/-- Settles O44: the session fails where its transaction ends; the recorded pair is one the invariant allows. -/
theorem failureEntryKeepsOffset : Obligations.FailureEntryKeepsOffset := by
  intro s t h hstep hne ht
  have hpair : failurePair t.failPhase t.failCause = true := by
    have hphase := (everyStepKeepsInv s t h hstep).phaseInv
    simp only [PhaseInv, ht] at hphase
    obtain ⟨hpair, -⟩ := hphase
    exact hpair
  rcases step_sessionStep hstep with hsess | hreset
  · cases hsess with
    | stays hrec => exact absurd ((sstate_of_sessionRecord hrec).symm.trans ht) hne
    | starts _ hq => rw [hq] at ht; cases ht
    | ends res u hc ha hrec himg hphase =>
      obtain ⟨hoff, hprog, himg', hidle, hrecorded⟩ := complete_failed (hphase h.phaseInv) ha hc ht
      simp only [sessionRecord, Prod.mk.injEq] at hrec
      obtain ⟨hss, -, -, hoff', hprog'⟩ := hrec
      rw [hss] at ha hrecorded
      exact ⟨ha, hoff.trans hoff', hprog.trans hprog', himg'.trans himg, hidle, hpair, hrecorded⟩
  · rw [hreset] at ht
    cases ht

end Sys2Proof.Machine
end

section
/-! SUPPORT. Runs of a channel that takes every byte: the events that lead from one state to another, and one transaction of
a session with its answer (spec/42_bootloader_commands.md R146 to R152). -/

namespace Sys2Proof.Machine

/-! ## Runs of a channel that takes every byte -/

theorem receivedBytes_append (es fs : List Event) :
    receivedBytes (es ++ fs) = receivedBytes es ++ receivedBytes fs := by
  induction es with
  | nil => rfl
  | cons e es ih => cases e <;> simp [receivedBytes, ih]

/-- Bytes sent, then the bytes of the answer. -/
def txnEvents (n : Nat) (bs : List Byte) : List Event := List.replicate n .txAccept ++ bs.map .rxByte

theorem countP_txnEvents (n : Nat) (bs : List Byte) : (txnEvents n bs).countP (· = .txAccept) = n := by
  simp [txnEvents, List.countP_append, List.countP_replicate, List.countP_map, Function.comp_def]

theorem receivedBytes_txnEvents (n : Nat) (bs : List Byte) : receivedBytes (txnEvents n bs) = bs := by
  have hsent : receivedBytes (List.replicate n .txAccept) = [] := by
    induction n with
    | zero => rfl
    | succ n ih => exact ih
  have hgot : receivedBytes (bs.map .rxByte) = bs := by
    induction bs with
    | nil => rfl
    | cons b bs ih => simp [receivedBytes, ih]
  rw [txnEvents, receivedBytes_append, hsent, hgot, List.nil_append]

theorem length_txnEvents (n : Nat) (bs : List Byte) : (txnEvents n bs).length = n + bs.length := by simp [txnEvents]

/-- What neither a transaction nor a session writes, the channel apart (R217). -/
def asideOf (s : State) : Bool × Byte × Half × Addr × Bool × Bool × Bool :=
  (s.herr, s.dOp, s.dSize, s.dAddr, s.dWr, s.dOk, s.dKnown)

theorem SameAround.aside_eq {s t : State} (h : SameAround s t) : asideOf t = asideOf s := by
  obtain ⟨-, -, -, -, h1, h2, h3, h4, h5, h6, h7⟩ := h
  simp only [asideOf, h1, h2, h3, h4, h5, h6, h7]

theorem runDecoder_aside (fmt : RespFormat) (s : State) : asideOf (runDecoder fmt s).1 = asideOf s := by
  cases fmt <;> rfl

/-- Some events, `n` accepted bytes and the received bytes `bs`, lead from `s` to `t` whatever is pending behind them. -/
structure Leads (s : State) (n : Nat) (bs : List Byte) (t : State) : Prop where
  run : ∃ es : List Event, es.countP (· = .txAccept) = n ∧ receivedBytes es = bs ∧ es.length = n + bs.length ∧
    ∀ rest, runSteps es.length (setPending (es ++ rest) s) = .next (setPending rest t)
  output : t.sent.length = s.sent.length + n
  aside : asideOf t = asideOf s

theorem Leads.trans {s t u : State} {m n : Nat} {bs cs : List Byte} (h : Leads s m bs t) (k : Leads t n cs u) :
    Leads s (m + n) (bs ++ cs) u := by
  obtain ⟨⟨es, hes, hbs, hlen, hrun⟩, hout, haside⟩ := h
  obtain ⟨⟨fs, hfs, hcs, hlen', hrun'⟩, hout', haside'⟩ := k
  refine ⟨⟨es ++ fs, ?_, ?_, ?_, fun rest => ?_⟩, by omega, haside'.trans haside⟩
  · rw [List.countP_append, hes, hfs]
  · rw [receivedBytes_append, hbs, hcs]
  · simp only [List.length_append]
    omega
  · rw [List.length_append, runSteps_add, List.append_assoc, hrun, andThen_next, hrun']

theorem inv_runSteps {k : Nat} {s t : State} (h : Inv s) (hrun : runSteps k s = .next t) : Inv t := by
  induction k generalizing s with
  | zero => exact Host.Outcome.next.inj hrun ▸ h
  | succ k ih =>
    rw [runSteps_succ] at hrun
    obtain ⟨u, hstep, hrest⟩ := andThen_eq_next hrun
    exact ih (everyStepKeepsInv s u h hstep) hrest

theorem Leads.inv {s t : State} {n : Nat} {bs : List Byte} (h : Leads s n bs t) (hs : Inv s) : Inv t := by
  obtain ⟨⟨es, -, -, -, hrun⟩, -, -⟩ := h
  exact inv_setPending (inv_runSteps (inv_setPending hs _) (hrun [])) t.pending

/-! ## One transaction with an answer -/

/-- A session about to send the first byte of a phase's command. -/
structure PhaseStart (ss : SState) (s : State) : Prop where
  inv : Inv s
  phase : s.sstate = ss
  sending : s.tstate = .txf
  first : s.idx = 0

/-- The block with other events pending and another index. -/
def resume (idx : Half) (rest : List Event) (s : State) : State := { s with idx := idx, pending := rest }

/-! The operations between two transactions commute with it. -/

@[simp] theorem resume_infoRow (n : Half) (es : List Event) (s : State) : (resume n es s).infoRow = s.infoRow := (rfl)
@[simp] theorem resume_sstate (n : Half) (es : List Event) (s : State) : (resume n es s).sstate = s.sstate := (rfl)
@[simp] theorem resume_op (n : Half) (es : List Event) (s : State) : (resume n es s).op = s.op := (rfl)
@[simp] theorem resume_size (n : Half) (es : List Event) (s : State) : (resume n es s).size = s.size := (rfl)
@[simp] theorem resume_offset (n : Half) (es : List Event) (s : State) : (resume n es s).offset = s.offset := (rfl)
@[simp] theorem resume_rspCsum (n : Half) (es : List Event) (s : State) : (resume n es s).rspCsum = s.rspCsum := (rfl)

@[simp] theorem csValue_resume (n : Half) (es : List Event) (s : State) : csValue (resume n es s) = csValue s := (rfl)
@[simp] theorem endTxn_resume (res : Cause) (n : Half) (es : List Event) (s : State) :
    endTxn res (resume n es s) = resume n es (endTxn res s) := (rfl)
@[simp] theorem enterPhase_resume (ss : SState) (n : Half) (es : List Event) (s : State) :
    enterPhase ss (resume n es s) = resume n es (enterPhase ss s) := (rfl)
@[simp] theorem setOffset_resume (o : Addr) (n : Half) (es : List Event) (s : State) :
    setOffset o (resume n es s) = resume n es (setOffset o s) := (rfl)
@[simp] theorem firstPage_resume (n : Half) (es : List Event) (s : State) :
    firstPage (resume n es s) = resume n es (firstPage s) := (rfl)
@[simp] theorem nextPage_resume (n : Half) (es : List Event) (s : State) :
    nextPage (resume n es s) = resume n es (nextPage s) := (rfl)
@[simp] theorem loadAddr_resume (a : Addr) (n : Half) (es : List Event) (s : State) :
    loadAddr a (resume n es s) = resume n es (loadAddr a s) := (rfl)
@[simp] theorem loadOperands_resume (op : Byte) (size : Half) (addr : Addr) (n : Half) (es : List Event) (s : State) :
    loadOperands op size addr (resume n es s) = resume n es (loadOperands op size addr s) := (rfl)

theorem runDecoder_resume (fmt : RespFormat) (n : Half) (es : List Event) (s : State) :
    runDecoder fmt (resume n es s) = (resume n es (runDecoder fmt s).1, (runDecoder fmt s).2) := by
  cases fmt <;> rfl

/-- The next command starts from its first byte. -/
@[simp] theorem launch_resume (n : Half) (es : List Event) (s : State) :
    launch (resume n es s) = setPending es (launch s) := (rfl)

/-- The block when the command is out and its answer stored, before the decoder runs. -/
def answered (bs : List Byte) (k : Nat) (s : State) : State :=
  { s with
    sent := s.sent ++ s.fb.toList ++ payloadOf s, tstate := .rx, rb := storeFrom s.rb 0 bs,
    rcnt := BitVec.ofNat 5 bs.length, timer := BitVec.ofNat 13 k }

@[simp] theorem allSent_rb (n : Half) (ts : TState) (s : State) : (allSent n ts s).rb = s.rb := (rfl)

theorem holding_eq_answered (bs : List Byte) (k : Nat) (n : Half) (ts : TState) (rest : List Event) (s : State) :
    holding (storeFrom s.rb 0 bs) bs.length k (setPending rest (enterRx k (allSent n ts s))) =
      resume n rest (answered bs k s) := by
  simp only [resume, answered, holding, setPending, enterRx, allSent]

/-- From the first byte of the frame to the last byte of the answer, and then the end of the transaction. -/
theorem runSteps_answered {s : State} {fmt : RespFormat} {k : Nat} {bs : List Byte} (hs : s.tstate = .txf)
    (hidx : s.idx = 0) (hc : s.rcnt = 0) (hr : s.op = 0x02 → s.addr.toNat + s.size.toNat ≤ 0x100000)
    (hf : respFormat s.op = some fmt) (hk : timeoutTicks s.op = some k) (hlen : bs.length = fmt.length)
    (rest : List Event) :
    ∃ n, runSteps (10 + (payloadOf s).length + bs.length)
        (setPending (txnEvents (10 + (payloadOf s).length) bs ++ rest) s) =
      complete (runDecoder fmt (answered bs k s)).2 (resume n rest (runDecoder fmt (answered bs k s)).1) := by
  obtain ⟨n, ts, hsend⟩ := runSteps_frame_payload hs hidx hr (bs.map .rxByte ++ rest)
  obtain ⟨-, -, hn⟩ := respFormat_eq_some hf
  obtain ⟨m, hm⟩ : ∃ m, fmt.length = m + 1 := by cases fmt <;> exact ⟨_, rfl⟩
  rw [hm] at hn
  have hle : bs.length ≤ 26 := hlen ▸ respFormat_length_le fmt
  have hne : bs ≠ [] := by
    rintro rfl
    rw [hm] at hlen
    cases hlen
  have hdue : s.rcnt.toNat + bs.length = fmt.length := by simp [hc, hlen]
  have hrecv := (runSteps_rxBytes bs rest (s := enterRx k (allSent n ts s)) rfl hf hdue).trans
    (rxBytes_of_due (s := setPending rest (enterRx k (allSent n ts s))) rfl hf hk hne hdue)
  rw [storeBytes_of_fresh (s := setPending rest (enterRx k (allSent n ts s))) k hc hne hle, setPending_rb, enterRx_rb,
    allSent_rb, holding_eq_answered, runDecoder_resume] at hrecv
  refine ⟨n, ?_⟩
  rw [txnEvents, List.append_assoc, runSteps_add, hsend, txDone_of_wait (s := setPending _ (allSent n ts s)) hn hk,
    andThen_next]
  exact hrecv

/-- A phase's transaction whose answer decodes well to `u`, when the end of it is known whatever the index and the events
behind. -/
theorem leads_of_answer {ss : SState} {s t u : State} {fmt : RespFormat} {k : Nat} {bs : List Byte} (h : PhaseStart ss s)
    (hf : respFormat s.op = some fmt) (hk : timeoutTicks s.op = some k) (hlen : bs.length = fmt.length)
    (hdec : runDecoder fmt (answered bs k s) = (u, .eNone))
    (hend : ∀ n rest, complete .eNone (resume n rest u) = .next (setPending rest t)) :
    Leads s (10 + (payloadOf s).length) bs t := by
  obtain ⟨-, ⟨hsending, -⟩, -⟩ := h.inv
  obtain ⟨-, -, hc, hr⟩ := hsending h.sending
  have haround := complete_around (hend 0 [])
  obtain rfl : (runDecoder fmt (answered bs k s)).1 = u := congrArg Prod.fst hdec
  refine ⟨⟨_, countP_txnEvents _ bs, receivedBytes_txnEvents _ bs, length_txnEvents _ bs, fun rest => ?_⟩, ?_, ?_⟩
  · obtain ⟨n, hrun⟩ :=
      runSteps_answered h.sending h.first hc (fun hop => (inImage_iff _ _).mp (hr hop)) hf hk hlen rest
    rw [length_txnEvents, hrun, hdec, hend]
  · have hsent : t.sent = s.sent ++ s.fb.toList ++ payloadOf s := haround.sent_eq.trans (runDecoder_sent _ _)
    simp only [hsent, List.length_append, Vector.length_toList]
    omega
  · exact haround.aside_eq.trans (runDecoder_aside fmt _)

end Sys2Proof.Machine
end

section
/-! SUPPORT. A session that succeeds, phase by phase: what each transaction sends and receives, and where the next one
starts (spec/43_session_sequencer.md R200 to R217). -/

namespace Sys2Proof.Machine

/-! ## Answers as the decoders take them -/

/-- What a decoder and the end of a transaction leave of the session, IMG and the command in flight. -/
structure SameCommand (s u : State) : Prop where
  sstate : u.sstate = s.sstate
  op : u.op = s.op
  size : u.size = s.size
  offset : u.offset = s.offset
  img : u.img = s.img

/-- A whole answer fills RB. -/
theorem storeFrom_all (rb answer : RespBuf) : storeFrom rb 0 answer.toList = answer :=
  Vector.toList_inj.mp ((storeFrom_toList answer.toList (by simp)).trans (by simp))

theorem decoded_version (answer : RespBuf) (k : Nat) (s : State) :
    ∃ u, runDecoder .version (answered answer.toList k s) = (u, .eNone) ∧ SameCommand s u ∧ u.infoRow = answer[20] :=
  ⟨decodeVersion (answered answer.toList k s), rfl, by constructor <;> simp [answered], by simp [answered, storeFrom_all]⟩

/-- The answer of a device that has done what the command asked for. -/
def okStatus : List Byte := List.replicate 10 0 ++ [0x01]

theorem length_okStatuses (n : Nat) : (List.replicate n okStatus).flatten.length = n * 11 := by
  simp [okStatus]

theorem decoded_okStatus (k : Nat) (s : State) :
    ∃ u, runDecoder .status (answered okStatus k s) = (u, .eNone) ∧ SameCommand s u ∧ u.rspStatus = 0x01 := by
  have hrb := storeFrom_toList okStatus (rb := s.rb) (k := 0) (by decide)
  rw [List.take_zero, List.nil_append, okStatus, List.append_assoc, List.singleton_append] at hrb
  obtain ⟨hdec, hres⟩ := decodeStatus_of_bytes (s := answered okStatus k s) (by simp) hrb
  refine ⟨{ answered okStatus k s with rspStatus := 0x01 }, ?_, by constructor <;> simp [answered], rfl⟩
  rw [runDecoder, hdec, hres, if_pos rfl]

/-- The answer of a device that has computed a checksum. -/
def csumAnswer (c : Half) : List Byte := List.replicate 10 0 ++ [hiByte c, loByte c]

theorem decoded_csumAnswer (c : Half) (k : Nat) (s : State) :
    ∃ u, runDecoder .csum (answered (csumAnswer c) k s) = (u, .eNone) ∧ SameCommand s u ∧ u.rspCsum = c ∧
      u.rspStatus = s.rspStatus := by
  have hrb := storeFrom_toList (csumAnswer c) (rb := s.rb) (k := 0) (by simp [csumAnswer])
  rw [List.take_zero, List.nil_append, csumAnswer, List.append_assoc, List.cons_append, List.singleton_append] at hrb
  have hdec := decodeCsum_of_bytes (s := answered (csumAnswer c) k s) (by simp) hrb
  exact ⟨{ answered (csumAnswer c) k s with rspCsum := c }, by rw [runDecoder, hdec], by constructor <;> simp [answered], rfl,
    by simp [answered]⟩

/-! ## The query, the erase and the pages -/

/-- A run from the start of a phase keeps the invariant, so it can end at the start of the next. -/
theorem PhaseStart.of_leads {ss ss' : SState} {s t : State} {n : Nat} {bs : List Byte} (h : PhaseStart ss s)
    (hl : Leads s n bs t) (hp : t.sstate = ss') (ht : t.tstate = .txf) (hi : t.idx = 0) : PhaseStart ss' t :=
  ⟨hl.inv h.inv, hp, ht, hi⟩

/-- A row size of 2 or more gives a row count of 16 bits (R204). -/
theorem eraseRows_of_two_le {row : Byte} (h : 2 ≤ row.toNat) : row ≠ 0 ∧ eraseRows row ≤ 0xFFFF := by
  refine ⟨fun h0 => by simp [h0] at h, ?_⟩
  calc (Config.winEnd - Config.winStart) / row.toNat
    _ ≤ (Config.winEnd - Config.winStart) / 2 := Nat.div_le_div_left h (by decide)
    _ ≤ 0xFFFF := by decide

/-- GetVersion, answered with a row size that fits: the erase starts. -/
theorem leads_query {s : State} (h : PhaseStart .query s) {answer : RespBuf} (hrow : 2 ≤ (answer[20]).toNat) :
    ∃ t, Leads s 10 answer.toList t ∧ PhaseStart .erase t ∧ t.img = s.img := by
  have hphase := h.inv.phaseInv
  simp only [PhaseInv, h.phase] at hphase
  obtain ⟨-, hop, -⟩ := hphase
  obtain ⟨hne, hrows⟩ := eraseRows_of_two_le hrow
  obtain ⟨u, hdec, hsame, hurow⟩ := decoded_version answer 1000 s
  have hus : u.sstate = .query := hsame.sstate.trans h.phase
  have hl := leads_of_answer h (by rw [hop]; rfl) (by rw [hop]; rfl) (by exact Vector.length_toList) hdec
    (t := launch (loadOperands 0x03 (BitVec.ofNat 16 (eraseRows u.infoRow)) 0x000800 (enterPhase .erase (endTxn .eNone u))))
    fun n rest => by
      rw [complete_good_query (by simpa using hus), endTxn_resume, eraseIssue_of_rows (by simpa [hurow] using hne)
        (by simpa [hurow] using hrows)]
      simp
  rw [payloadOf_eq_nil (by simp [hop])] at hl
  exact ⟨_, hl, h.of_leads hl rfl rfl rfl, hsame.img⟩

/-- FlashErase done: the sentinel is written and the first page starts. -/
theorem leads_erase {s : State} (h : PhaseStart .erase s) :
    ∃ t, Leads s 10 okStatus t ∧ PhaseStart .write t ∧ t.offset = 0x000800 ∧ t.img = cellWrite s.img 0x1FFFF 0x55 := by
  have hphase := h.inv.phaseInv
  simp only [PhaseInv, h.phase] at hphase
  obtain ⟨-, hop, -⟩ := hphase
  obtain ⟨u, hdec, hsame, -⟩ := decoded_okStatus 5000 s
  have hl := leads_of_answer h (by rw [hop]; rfl) (by rw [hop]; rfl) rfl hdec
    (t := launch (loadOperands 0x02 0x0080 0x000800 (firstPage (endTxn .eNone u)))) fun n rest => by
      rw [complete_good_erase (s := resume n rest u) (hsame.sstate.trans h.phase), issuePage_firstPage]
      simp
  rw [payloadOf_eq_nil (by simp [hop])] at hl
  exact ⟨_, hl, h.of_leads hl rfl rfl rfl, rfl, by rw [← hsame.img]; rfl⟩

/-- The end of a page that succeeded, whatever follows it. -/
theorem leads_page {s : State} (h : PhaseStart .write s) :
    ∃ u, SameCommand s u ∧ u.rspStatus = 0x01 ∧ u.op = 0x02 ∧ u.size = 0x0080 ∧
      ∀ t, (∀ n rest, afterPage (resume n rest u) = setPending rest t) → Leads s 138 okStatus t := by
  have hphase := h.inv.phaseInv
  simp only [PhaseInv, h.phase] at hphase
  obtain ⟨-, hop, hsize, -⟩ := hphase
  have hpay : (payloadOf s).length = 128 := by simp [payloadOf_flashWrite hop, imageBytes, hsize]
  obtain ⟨u, hdec, hsame, hstat⟩ := decoded_okStatus 1000 s
  refine ⟨endTxn .eNone u, ⟨hsame.sstate, hsame.op, hsame.size, hsame.offset, hsame.img⟩, hstat, hsame.op.trans hop,
    hsame.size.trans hsize, fun t ht => ?_⟩
  have hl := leads_of_answer h (by rw [hop]; rfl) (by rw [hop]; rfl) rfl hdec (t := t) fun n rest => by
    rw [complete_good_write (s := resume n rest u) (hsame.sstate.trans h.phase), endTxn_resume, ht]
  rwa [hpay] at hl

/-- All pages from here to the end of the window: the first verify window starts. -/
theorem leads_pages (m : Nat) {s : State} (h : PhaseStart .write s) (hm : s.offset.toNat + 0x80 * (m + 1) = 0x20000) :
    ∃ t, Leads s (138 * (m + 1)) (List.replicate (m + 1) okStatus).flatten t ∧ PhaseStart .verify t ∧
      t.offset = 0x000800 ∧ t.rspStatus = 0x01 ∧ t.img = s.img := by
  induction m generalizing s with
  | zero =>
    obtain ⟨u, hsame, hstat, -, -, hlead⟩ := leads_page h
    have hl := hlead (launch (loadOperands 0x08 0xFFF0 0x000800 (enterPhase .verify (setOffset 0x000800 (nextPage u)))))
      fun n rest => by
        rw [afterPage_window (by rw [resume_offset, hsame.offset]; omega) (by rw [resume_offset, hsame.offset]; omega)]
        simp
    rw [show (List.replicate (0 + 1) okStatus).flatten = okStatus from List.append_nil _]
    exact ⟨_, hl, h.of_leads hl rfl rfl rfl, rfl, by simpa using hstat, by simpa using hsame.img⟩
  | succ m ih =>
    obtain ⟨u, hsame, hstat, huop, husize, hlead⟩ := leads_page h
    have hl := hlead (launch (loadAddr (nextPage u).offset (nextPage u))) fun n rest => by
      rw [afterPage_next (by simpa using huop) (by simpa using husize) (by rw [resume_offset, hsame.offset]; omega)]
      simp
    have hnext : (launch (loadAddr (nextPage u).offset (nextPage u))).offset.toNat = s.offset.toNat + 0x80 := by
      rw [launch_offset, loadAddr_offset, nextPage_toNat (by rw [hsame.offset]; omega), hsame.offset]
    have hstart := h.of_leads hl (ss' := .write) (by simp [hsame.sstate, h.phase]) rfl rfl
    obtain ⟨t, hl', hstart', hoff, hstat, himg⟩ := ih hstart (by omega)
    refine ⟨t, ?_, hstart', hoff, hstat, by simpa [hsame.img] using himg⟩
    rw [Nat.mul_succ, Nat.add_comm]
    exact hl.trans hl'

/-! ## The verify windows and the device's reset -/

/-- Pushing and the index have nothing to do with each other. -/
theorem csPushByte_resume (n : Half) (es : List Event) (s : State) (b : Byte) :
    csPushByte (resume n es s) b = resume n es (csPushByte s b) := by
  cases hph : s.csPh with
  | false =>
    rw [csPushByte_first hph, csPushByte_first (s := resume n es s) hph]
    rfl
  | true =>
    rw [csPushByte_second hph, csPushByte_second (s := resume n es s) hph]
    rfl

theorem csPushAll_resume (bs : List Byte) (n : Half) (es : List Event) (s : State) :
    csPushAll bs (resume n es s) = resume n es (csPushAll bs s) := by
  induction bs generalizing s with
  | nil => rfl
  | cons b bs ih => rw [csPushAll_cons, csPushAll_cons, csPushByte_resume, ih]

@[simp] theorem localChecksum_resume (n : Half) (es : List Event) (s : State) :
    localChecksum (resume n es s) = resume n es (localChecksum s) := csPushAll_resume _ n es (csClear s)

@[simp] theorem localChecksum_op (s : State) : (localChecksum s).op = s.op :=
  localChecksum_keeps (·.op) (fun _ _ _ _ _ => rfl) s

@[simp] theorem localChecksum_rspStatus (s : State) : (localChecksum s).rspStatus = s.rspStatus :=
  localChecksum_keeps (·.rspStatus) (fun _ _ _ _ _ => rfl) s

/-- A window that the device has computed as the block does, whatever follows it. -/
theorem leads_window {s : State} (h : PhaseStart .verify s) :
    ∃ bs u, bs.length = 12 ∧ SameCommand s u ∧ u.rspStatus = s.rspStatus ∧ csEq u = true ∧
      csValue u = checksum (imageBytes s.img s.offset.toNat s.size.toNat) ∧
      ∀ t, (∀ n rest, nextWindow (resume n rest u) = setPending rest t) → Leads s 10 bs t := by
  have hphase := h.inv.phaseInv
  simp only [PhaseInv, h.phase] at hphase
  obtain ⟨-, hop, -⟩ := hphase
  obtain ⟨-, -, hsess⟩ := h.inv
  have hin := windowInImage_of_sessInv hsess h.phase
  generalize hc : checksum (imageBytes s.img s.offset.toNat s.size.toNat) = c
  obtain ⟨u, hdec, hsame, hcsum, hstat⟩ := decoded_csumAnswer c 1000 s
  have hvalue : csValue (localChecksum (endTxn .eNone u)) = c := by
    rw [csValue_localChecksum, endTxn_img, endTxn_offset, endTxn_size, hsame.img, hsame.offset, hsame.size, hc]
  have hequal : (localChecksum (endTxn .eNone u)).rspCsum = csValue (localChecksum (endTxn .eNone u)) := by
    rw [hvalue, localChecksum_rspCsum, endTxn_rspCsum, hcsum]
  refine ⟨csumAnswer c, localChecksum (endTxn .eNone u), by simp [csumAnswer], ⟨?_, ?_, ?_, ?_, ?_⟩, by simp [hstat],
    beq_iff_eq.mpr hequal, hvalue, fun t ht => ?_⟩
  · simp [hsame.sstate]
  · simp [hsame.op]
  · simp [hsame.size]
  · simp [hsame.offset]
  · rw [localChecksum_img, endTxn_img, hsame.img]
  · have hl := leads_of_answer h (by rw [hop]; rfl) (by rw [hop]; rfl) rfl hdec (t := t)
      fun n rest => by
        rw [complete_good_verify (by simp [hsame.sstate, h.phase]) (by simpa [hsame.offset, hsame.size] using hin),
          endTxn_resume, localChecksum_resume, csValue_resume, resume_rspCsum, if_neg (not_not.mpr hequal.symm), ht]
    rwa [payloadOf_eq_nil (by simp [hop])] at hl

/-- The size of the window in flight (R208). -/
theorem PhaseStart.window_size {s : State} (h : PhaseStart .verify s) : s.size = verifyLen s.offset := by
  have hphase := h.inv.phaseInv
  simp only [PhaseInv, h.phase] at hphase
  obtain ⟨-, -, hsize, -⟩ := hphase
  exact hsize

/-- The first window compared: the second one starts. -/
theorem leads_firstWindow {s : State} (h : PhaseStart .verify s) (hoff : s.offset = 0x000800) :
    ∃ bs t, bs.length = 12 ∧ Leads s 10 bs t ∧ PhaseStart .verify t ∧ t.offset = 0x0107F0 ∧ t.rspStatus = s.rspStatus ∧
      t.img = s.img := by
  have hsize : s.size = 0xFFF0 := by
    rw [h.window_size, hoff]
    rfl
  obtain ⟨bs, u, hlen, hsame, hstat, -, -, hlead⟩ := leads_window h
  have hl := hlead (launch (loadOperands 0x08 0xF80E 0x0107F0 (setOffset 0x0107F0 u))) fun n rest => by
    have hend : u.offset + u.size.setWidth 24 = 0x0107F0 := by
      rw [hsame.offset, hsame.size, hoff, hsize]
      rfl
    have hnext : verifyLen 0x0107F0 = 0xF80E := rfl
    rw [nextWindow_of_more (by simp [hsame.offset, hsame.size, hoff, hsize]), resume_offset, resume_size, hend, hnext]
    simp
  exact ⟨bs, _, hlen, hl, h.of_leads hl (by simp [hsame.sstate, h.phase]) rfl rfl, rfl, by simp [hstat], by simp [hsame.img]⟩

/-- The second window compared: the device's reset starts. -/
theorem leads_secondWindow {s : State} (h : PhaseStart .verify s) (hoff : s.offset = 0x0107F0) :
    ∃ bs t, bs.length = 12 ∧ Leads s 10 bs t ∧ PhaseStart .reset t ∧ t.wr = false ∧ t.rspStatus = s.rspStatus ∧
      t.img = s.img ∧ csEq t = true ∧ csValue t = checksum (imageBytes t.img 0x107F0 0xF80E) := by
  have hsize : s.size = 0xF80E := by
    rw [h.window_size, hoff]
    rfl
  obtain ⟨bs, u, hlen, hsame, hstat, heq, hvalue, hlead⟩ := leads_window h
  have hl := hlead (launch (loadOperands 0x09 0 0 (enterPhase .reset (setOffset 0x01FFFE u)))) fun n rest => by
    rw [nextWindow_of_last (by simp [hsame.offset, hsame.size, hoff, hsize])]
    simp
  refine ⟨bs, _, hlen, hl, h.of_leads hl rfl rfl rfl, rfl, by simp [hstat], by simp [hsame.img],
    by simpa [csEq, csValue] using heq, ?_⟩
  rw [hoff, hsize] at hvalue
  simpa [csValue, hsame.img] using hvalue

/-- The device's reset sent: the session is done, with the registers as they were (R217). -/
theorem leads_reset {s : State} (h : PhaseStart .reset s) :
    ∃ t, Leads s 10 [] t ∧ t.sstate = .done ∧ t.tstate = .idle ∧ t.tres = .eNone ∧ t.op = 0x09 ∧ t.size = 0 ∧ t.addr = 0 ∧
      t.wr = s.wr ∧ t.rspStatus = s.rspStatus ∧ csEq t = csEq s ∧ csValue t = csValue s ∧ t.img = s.img := by
  have hphase := h.inv.phaseInv
  simp only [PhaseInv, h.phase] at hphase
  obtain ⟨-, hop, hsize, haddr, -⟩ := hphase
  have hall := sentUpTo_all (bs := s.fb.toList) (n := 10) Vector.length_toList s
  obtain ⟨u, hu⟩ : ∃ u, u = sentUpTo s.fb.toList 10 s := ⟨_, rfl⟩
  have huop : u.op = 0x09 := by simp [hu, hall, hop]
  have hus : u.sstate = .reset := by simp [hu, hall, h.phase]
  have huidx : u.idx = 10 := by simp [hu, hall]
  refine ⟨enterPhase .done (endTxn .eNone u), ⟨⟨txnEvents 10 [], rfl, rfl, rfl, fun rest => ?_⟩, ?_, ?_⟩, ?_⟩
  · have hnopay : ¬((setPending rest u).op = 0x02 ∧ (setPending rest u).size ≠ 0) := by simp [huop]
    obtain ⟨hdone, -⟩ := txDoneResult (setPending rest u)
    refine (runSteps_frame h.sending h.first rest).trans ?_
    rw [← hu, afterFrameByte_done (s := setPending rest u) huidx hnopay, hdone huop,
      complete_good_reset (s := setPending rest u) hus]
    rfl
  · simp [hu, hall]
  · simp [hu, hall, asideOf]
  · simp [hu, hall, hop, hsize, haddr, csEq, csValue]

/-! ## The whole session -/

/-- From the query to S_DONE: 139154 bytes out, the answers in, and S_DONE (R215, R217). -/
theorem leads_session {s : State} (h : PhaseStart .query s) {answer : RespBuf} (hrow : 2 ≤ (answer[20]).toNat) :
    ∃ bs t, bs.length = 11149 ∧ bs.take 26 = answer.toList ∧ Leads s 139154 bs t ∧ t.sstate = .done ∧ t.tstate = .idle ∧
      t.tres = .eNone ∧ t.op = 0x09 ∧ t.size = 0 ∧ t.addr = 0 ∧ t.wr = false ∧ t.rspStatus = 0x01 ∧ csEq t = true ∧
      csValue t = checksum (imageBytes t.img 0x107F0 0xF80E) ∧ t.img = cellWrite s.img 0x1FFFF 0x55 := by
  obtain ⟨s1, hquery, h1, himg1⟩ := leads_query h hrow
  obtain ⟨s2, herase, h2, hoff2, himg2⟩ := leads_erase h1
  obtain ⟨s3, hpages, h3, hoff3, hstat3, himg3⟩ := leads_pages 1007 h2 (by rw [hoff2]; rfl)
  obtain ⟨bs4, s4, hlen4, hfirst, h4, hoff4, hstat4, himg4⟩ := leads_firstWindow h3 hoff3
  obtain ⟨bs5, s5, hlen5, hsecond, h5, hwr5, hstat5, himg5, heq5, hvalue5⟩ := leads_secondWindow h4 hoff4
  obtain ⟨t, hreset, hs, ht, htres, hop, hsize, haddr, hwr, hstat, heq, hvalue, himg⟩ := leads_reset h5
  have hall := hquery.trans (herase.trans (hpages.trans (hfirst.trans (hsecond.trans hreset))))
  refine ⟨_, t, ?_, ?_, hall, hs, ht, htres, hop, hsize, haddr, hwr.trans hwr5, ?_, heq.trans heq5, ?_, ?_⟩
  · simp only [List.length_append, length_okStatuses, hlen4, hlen5, Vector.length_toList]
    rfl
  · exact List.take_left' (by simp)
  · rw [hstat, hstat5, hstat4, hstat3]
  · rw [hvalue, hvalue5, himg]
  · rw [himg, himg5, himg4, himg3, himg2, himg1]

theorem phaseStart_startSession {s : State} (h : Inv s) : PhaseStart .query (startSession s) :=
  ⟨inv_startSession h, startSession_sstate s, by rw [startSession_eq_launch]; rfl, by rw [startSession_eq_launch]; rfl⟩

/-- The step that takes START in S_IDLE. -/
theorem step_start {s : State} (hb : busy s = false) (hs : s.sstate = .idle) (es : List Event) :
    step (setPending (.hostWrite ctrlIndex 0x02 :: es) s) = .next (setPending es (startSession s)) := by
  have hyes : ¬(busy (setPending es s) = true ∨ (setPending es s).sstate ≠ .idle) := by
    have hb' : busy (setPending es s) = false := hb
    simp [hb', hs]
  rw [step_ctrl_request (i := .start) rfl, exec, execStart, if_neg hyes, startSession_eq_launch, startSession_eq_launch]
  rfl

/-- Settles O46: START, and then the whole session. -/
theorem sessionReachesDone : Obligations.SessionReachesDone := by
  intro s answer h hb hs hrow
  have hstart := phaseStart_startSession h
  obtain ⟨bs, t, hlen, htake, hleads, hdone, hidle, htres, hop, hsize, haddr, hwr, hstat, heq, hvalue, himg⟩ :=
    leads_session hstart hrow
  have hphase := (hleads.inv hstart.inv).phaseInv
  simp only [PhaseInv, hdone] at hphase
  obtain ⟨⟨hfp, hfc⟩, hoff, hprog, hsent⟩ := hphase
  obtain ⟨⟨es, hcount, hgot, heslen, hrun⟩, hout, haside⟩ := hleads
  have himgS : (startSession s).img = s.img := congrArg Prod.fst (startSession_imgAndSent s)
  have hsentS : (startSession s).sent = s.sent := congrArg Prod.snd (startSession_imgAndSent s)
  have hasideS : asideOf (startSession s) = asideOf s := by simp [startSession_eq_launch, asideOf]
  rw [hasideS] at haside
  simp only [asideOf, Prod.mk.injEq] at haside
  obtain ⟨hherr, hdop, hdsize, hdaddr, hdwr, hdok, hdknown⟩ := haside
  have hall : runSteps (1 + es.length) (setPending (.hostWrite ctrlIndex 0x02 :: es) s) = .next (setPending [] t) := by
    rw [runSteps_add, runSteps_one, step_start hb hs, andThen_next, ← hrun [], List.append_nil]
  refine ⟨es, setPending [] t, hcount, hgot ▸ hlen, hlen ▸ heslen, hgot ▸ htake, hall, rfl, hdone, hidle, htres, hfp, hfc,
    hop, hsize, haddr, hwr, hoff, hprog, hstat, heq, hvalue, hherr, hdop, hdsize, hdaddr, hdwr, hdok, hdknown, hsent,
    fun a ha => ?_, ?_⟩
  · rw [setPending_img, himg, himgS, cellRead_cellWrite_other _ ha]
  · rw [setPending_sent, hout, hsentS]

end Sys2Proof.Machine
end

section
/-! SUPPORT. The order of the events of one clock period: an insertion sort by urgency (spec/60_exceptions.md R235). -/

namespace Sys2Proof.Machine

/-! ## The ranks -/

theorem urgency_srst {v : Word} (hv : v.getLsbD 0 = true) : urgency (.hostWrite 0x00 v) = 1 := by
  have hsrst : isSrst (.hostWrite 0x00 v) = true := by simp [isSrst, ctrlIndex, hv]
  rw [urgency, if_pos hsrst]

theorem urgency_hostWrite_other {i : Index} {w : Word} (hw : ¬(i = 0x00 ∧ w.getLsbD 0 = true)) :
    urgency (.hostWrite i w) = 7 := by
  have hother : ¬isSrst (.hostWrite i w) = true := by simpa [isSrst, ctrlIndex] using hw
  rw [urgency, if_neg hother]

@[simp] theorem urgency_reset : urgency .reset = 0 := (rfl)
@[simp] theorem urgency_rxError : urgency .rxError = 2 := (rfl)
@[simp] theorem urgency_rxByte (b : Byte) : urgency (.rxByte b) = 3 := (rfl)
@[simp] theorem urgency_tick : urgency .tick = 4 := (rfl)
@[simp] theorem urgency_txFail : urgency .txFail = 5 := (rfl)
@[simp] theorem urgency_txAccept : urgency .txAccept = 6 := (rfl)
@[simp] theorem urgency_hostRead (i : Index) : urgency (.hostRead i) = 7 := (rfl)

/-! ## The sort -/

theorem insertByUrgency_eq_orderedInsert (e : Event) (es : List Event) :
    insertByUrgency e es = es.orderedInsert (urgency ⁻¹'o (· ≤ ·)) e := by
  induction es with
  | nil => rfl
  | cons x xs ih =>
    rw [insertByUrgency, List.orderedInsert_cons, ih]
    rfl

/-- So the library's facts about `insertionSort` are facts about the order of a period. -/
theorem orderPeriod_eq_insertionSort (es : List Event) :
    orderPeriod es = es.insertionSort (urgency ⁻¹'o (· ≤ ·)) := by
  induction es with
  | nil => rfl
  | cons e es ih => rw [orderPeriod, List.insertionSort_cons, ih, insertByUrgency_eq_orderedInsert]

theorem orderPeriod_perm (es : List Event) : (orderPeriod es).Perm es :=
  orderPeriod_eq_insertionSort es ▸ List.perm_insertionSort _ es

theorem orderPeriod_pairwise (es : List Event) : (orderPeriod es).Pairwise fun a b => urgency a ≤ urgency b :=
  orderPeriod_eq_insertionSort es ▸ List.pairwise_insertionSort (urgency ⁻¹'o (· ≤ ·)) es

/-- One event of every rank, least urgent first, and a host access of either kind: of the writes only the rank matters,
and the two equally urgent accesses keep their order (log 17). -/
theorem orderPeriod_every_rank {srst other : Event} (hsrst : urgency srst = 1) (hother : urgency other = 7) (b : Byte)
    (i : Index) :
    orderPeriod [other, .hostRead i, .txAccept, .txFail, .tick, .rxByte b, .rxError, srst, .reset] =
      [.reset, srst, .rxError, .rxByte b, .tick, .txFail, .txAccept, other, .hostRead i] := by
  simp [orderPeriod, insertByUrgency, hsrst, hother]

/-- Settles O60: the order of a period is a sort, and it takes an SRST and any other host write at their ranks of R235. -/
theorem periodOrder : Obligations.PeriodOrder :=
  ⟨fun es => ⟨orderPeriod_perm es, orderPeriod_pairwise es⟩,
    fun b i _ _ hv hw => orderPeriod_every_rank (urgency_srst hv) (urgency_hostWrite_other hw) b i⟩

end Sys2Proof.Machine
end

section
/-! SUPPORT. What one `Tick` does (spec/60_exceptions.md R241). -/

namespace Sys2Proof.Machine

theorem tick_of_not_rx {s : State} (hs : s.tstate ≠ .rx) : tick s = .next s := by
  unfold tick
  split
  case h_4 hrx => exact absurd hrx hs
  all_goals rfl

/-- Settles O27: outside T_RX, above 1 and at 1; the invariant of a transaction bounds TIMER from below. -/
theorem tickResult : Obligations.TickResult := by
  refine fun s => ⟨tick_of_not_rx, fun hs hne => ?_, fun hs h1 => ?_, fun hinv hs => ?_⟩
  · have hmore : s.timer - 1 ≠ 0 := by bv_omega
    exact tick_of_more hs hmore
  · have hlast : s.timer - 1 = 0 := by bv_omega
    rw [tick_of_last hs hlast, countDown, hlast]
  · obtain ⟨-, ⟨-, -, hrx⟩, -⟩ := hinv
    obtain ⟨-, hpos, -⟩ := hrx hs
    exact hpos

end Sys2Proof.Machine
end

section
/-! SUPPORT. The invariant holds after reset, so with `inv_runSteps` it holds along every run from there
(spec/70_reset_and_hazards.md R260). -/

namespace Sys2Proof.Machine

/-- After reset the session is in S_IDLE: no failure is recorded, and OFFSET and PROGRESS are 0. -/
theorem phaseInv_reset : PhaseInv State.reset :=
  have hfail : noFailure State.reset := ⟨rfl, rfl⟩
  ⟨hfail, rfl, rfl⟩

/-- Settles O50: nothing is listed in IMG, and neither a transaction nor a session is running. -/
theorem resetStateMeetsInv : Obligations.ResetStateMeetsInv :=
  have himg : Memory.wf State.reset.img = true := rfl
  inv_of_idle himg rfl rfl phaseInv_reset

end Sys2Proof.Machine
end
